-- ==== Sys2Proof/Word.lean ====
section
/-! DEFINITION. The word types of the MA-FFT engine and nothing else (arithmetic on them is in Machine/). -/

namespace Sys2Proof

/-- A bus word (R10, R60). The port is `BW = FLEN` bits wide; a word is kept zero-extended in 64 bits, so that
one type serves a 32-bit and a 64-bit build (log 5). -/
abbrev Word := BitVec 64

/-- A floating-point datum `T` of R10 and R110: its IEEE bit pattern, in the low `FLEN` bits (log 5). -/
abbrev T := BitVec 64

/-- A word address of the port (R60, R61). -/
abbrev Addr := BitVec 32

/-- A command word (R90). -/
abbrev CmdWord := BitVec 32

/-- A complex value of R10: a pair of `T` values. -/
structure Cplx where
  /-- the real part -/
  re : T
  /-- the imaginary part -/
  im : T
deriving DecidableEq, Repr

end Sys2Proof
end

