-- ==== Sys2Proof/Config.lean ====
section
/-! DEFINITION. What a build of the engine fixes (R7), and the free values the spec leaves open. -/

namespace Sys2Proof

/-- `FLEN` of R7: the width of `T`. -/
inductive Flen where
  /-- `FLEN = 32`, IEEE 754 binary32 -/
  | w32
  /-- `FLEN = 64`, IEEE 754 binary64 -/
  | w64
deriving DecidableEq, Repr

/-- `PEAK_REPORT` of R7 and R204. -/
inductive PeakReport where
  /-- the pair of the present candidate is inserted -/
  | current
  /-- the pair of the previous candidate is inserted -/
  | previous
deriving DecidableEq, Repr

/-- `NUM` of R7 and R124: which numerics configuration a build has. -/
inductive NumSel where
  /-- the correctly rounded reference of R122, R123 and R125 -/
  | reference
  /-- any other filling of the tables, numbered; its functions are the free functions of `Config` (log 7) -/
  | other (id : Nat)
deriving DecidableEq, Repr

/-- The implementation parameters of R7. They are constants of a build: no step changes them (R22, log 2). -/
structure Build where
  /-- `FLEN` -/
  flen : Flen
  /-- `LOG2N_MAX`, 1 to 23 -/
  log2nMax : Nat
  /-- `LOG2ND_MAX`, 0 to 23 -/
  log2ndMax : Nat
  /-- `S`, 1 to 255 -/
  slots : Nat
  /-- `PEAK_REPORT` -/
  peakReport : PeakReport
  /-- `NUM` -/
  num : NumSel
deriving DecidableEq, Repr

/-- The ranges of R7. -/
def Build.wf (b : Build) : Bool :=
  (1 ≤ b.log2nMax && b.log2nMax ≤ 23) && b.log2ndMax ≤ 23 && (1 ≤ b.slots && b.slots ≤ 255)

/-- DESIGN CHOICE (log 2), unsafe: the build of `State.reset`. `FLEN`, `PEAK_REPORT` and `NUM` are the values R7
takes; `LOG2N_MAX`, `LOG2ND_MAX` and `S` are OPEN in R7, and are those of the build of 95_test_vectors.md whose
`CAP` reads 0x0000088A. Every statement about the machine is over all builds. -/
def Config.resetBuild : Build where
  flen := .w32
  log2nMax := 10
  log2ndMax := 4
  slots := 2
  peakReport := .current
  num := .reference

/-- Free value (log 3): the sign and payload bits of the NaN results, one draw per operation (R115, V1). -/
opaque Config.freeNaN : Nat → BitVec 64

/-- Free function (log 7): `TWID` of the numerics configuration `other id` (R124). -/
opaque Config.otherTwid : Nat → Flen → Nat → Nat → BitVec 64 × BitVec 64

/-- Free function (log 7): `HANN` of the numerics configuration `other id` (R124). -/
opaque Config.otherHann : Nat → Flen → Nat → Nat → BitVec 64

/-- Free function (log 7): `ROT` of the numerics configuration `other id` (R124). -/
opaque Config.otherRot : Nat → Flen → BitVec 64 → Nat → BitVec 64 → BitVec 64 × BitVec 64

/-- Free value (log 8): the reference `ROT` on arguments outside the domain R125 gives it. -/
opaque Config.rotOutside : Flen → BitVec 64 → Nat → BitVec 64 → BitVec 64 × BitVec 64

/-- Free value (log 6): which of the two neighbours the reference tables take where the finest enclosure of the
model still leaves two candidates. -/
opaque Config.undecidedDown : Nat → Nat → Nat → Bool

end Sys2Proof
end

