-- ==== Sys2Proof/Syntax.lean ====
section
/-! DEFINITION. The commands of the MA-FFT command set: one constructor per row of spec/opcode_table.json. -/

namespace Sys2Proof

/-- A decoded command (R92). An argument is the number the 24-bit field `arg` holds (R91). -/
inductive Instr where
  /-- `NOP`, R240 -/
  | nop
  /-- `TE.INIT n`, R141 -/
  | teInit (n : Nat)
  /-- `TE.WINLD`, R161 -/
  | teWinld
  /-- `TE.STAGE s`, R165 -/
  | teStage (k : Nat)
  /-- `TE.MAG`, R169 -/
  | teMag
  /-- `TE.XFORM`, R173 -/
  | teXform
  /-- `TD.INIT n`, R150 -/
  | tdInit (n : Nat)
  /-- `TD.ONSET`, R191 -/
  | tdOnset
  /-- `TD.SWEEP`, R195 -/
  | tdSweep
  /-- `TD.DETECT`, R207 -/
  | tdDetect
  /-- `RESET`, R241 -/
  | reset
deriving DecidableEq, Repr

end Sys2Proof
end

