-- ==== Sys2Proof/Machine/State.lean ====
section
/-! DEFINITION. The state of the engine (10_state.md) as plain data, the reasons a step can stop, and the state
after a hard reset (R44). -/

namespace Sys2Proof.Machine

/-- The nine element memories of R39 and R40. -/
inductive MemName where
  /-- `TW` -/
  | tw
  /-- `BR` -/
  | br
  /-- `WIN` -/
  | win
  /-- `IN` -/
  | inp
  /-- `WORK` -/
  | work
  /-- `OUT` -/
  | out
  /-- `DWIN` -/
  | dwin
  /-- `DV` -/
  | dv
  /-- `TOP` -/
  | top
deriving DecidableEq, Repr

/-- The reasons the machine stops. The engine itself never does (R234, R260): both reasons stand for states that no
run from reset reaches, and both are safe (log 4, log 9). -/
inductive Fault where
  /-- Raised by a micro-operation or a host read of element `idx` of memory `m` when nothing has written that
  element since the memories lost their contents (R44, R45). Safe: the hardware would go on with some value. -/
  | unwritten (m : MemName) (idx : Nat)
  /-- Raised by the sequencer when `BUSY = 1` and the latch `CUR` holds a word that has no micro-operation list
  (R42: `CUR` holds the word accepted last). Safe: the spec gives such a state no step. -/
  | latch (cur : CmdWord)
deriving DecidableEq, Repr

/-- The reasons the model gives no meaning. The spec's refusals (R260) are not among them: they are next states,
with the error record written. -/
inductive Refusal where
  /-- Raised by `exec` for a command that has no meaning in the model yet; no arm does. Safe. -/
  | notModelled (mnemonic : String)
deriving DecidableEq, Repr

/-- The eight error codes of R261. -/
inductive ErrCode where
  /-- `E_OPC` -/
  | opc
  /-- `E_BUSY` -/
  | busy
  /-- `E_CFG` -/
  | cfg
  /-- `E_SIZE` -/
  | size
  /-- `E_SEQ` -/
  | seq
  /-- `E_OVF` -/
  | ovf
  /-- `E_ACC` -/
  | acc
  /-- `E_ARG` -/
  | arg
deriving DecidableEq, Repr

/-- One turn of an agent (R12): what the outside of the engine has decided happens next (log 1). -/
inductive Event where
  /-- the host performs `HostRead(A)`, R60 -/
  | hostRead (a : Addr)
  /-- the host performs `HostWrite(A, v)`, R60 -/
  | hostWrite (a : Addr) (v : Word)
  /-- the sequencer takes its step, R234 -/
  | sequencer
  /-- the reset input is asserted, R300 -/
  | resetAssert
  /-- the reset input is released, R300 -/
  | resetRelease
deriving DecidableEq, Repr

/-- What the port answers in a step: `rsp_valid` and `rsp_rdata` of R60 (log 11). -/
inductive Response where
  /-- no transaction finished in the last step -/
  | none
  /-- a write finished -/
  | written
  /-- a read finished and returned `v` -/
  | read (v : Word)
deriving DecidableEq, Repr

/-- An element memory: the elements written so far, by element index, indices strictly rising. An index that is not
listed holds no value (log 4). -/
abbrev Mem (α : Type) := List (Nat × α)

/-- One entry of `TOP` (R40): a strength and a candidate of 24 bits. -/
structure TopEntry where
  /-- the correlation strength -/
  str : T
  /-- the candidate -/
  cand : BitVec 24
deriving DecidableEq, Repr

/-- The complete state of the engine (R22), flat, with the model's own four fields at the end. -/
structure State where
  /-- the build's constants, shown by `CAP` (R7, R24); no step changes them (log 2) -/
  build : Build
  /-- `STATUS.BUSY`, R25 -/
  busy : Bool
  /-- `STATUS.UNIT`, R25: true when a `TD.` command runs -/
  unit : Bool
  /-- `STATUS.TE_VALID`, R25 -/
  teValid : Bool
  /-- `STATUS.WORK_VALID`, R25 -/
  workValid : Bool
  /-- `STATUS.OUT_VALID`, R25 -/
  outValid : Bool
  /-- `STATUS.TD_VALID`, R25 -/
  tdValid : Bool
  /-- `STATUS.ONS_VALID`, R25 -/
  onsValid : Bool
  /-- `STATUS.TOP_VALID`, R25 -/
  topValid : Bool
  /-- `STATUS.OPC`, R25 -/
  opc : BitVec 8
  /-- `ERR`, R27 -/
  err : BitVec 32
  /-- `ECODE`, R28 -/
  ecode : BitVec 8
  /-- `EINFO`, R28 -/
  einfo : BitVec 32
  /-- `IE`, R29: bit 0 `DONE`, bit 1 `ERR` -/
  ie : BitVec 2
  /-- `IP.DONE`, R29; `IP.ERR` is derived from `err` -/
  ipDone : Bool
  /-- `SEQ`, the counter of R21 and R30 -/
  seq : Nat
  /-- `TE_N`, R31 -/
  teN : Nat
  /-- `TE_LOG2N`, R31 -/
  teLog2n : Nat
  /-- `TE_INCNT`, R32 -/
  teIncnt : Nat
  /-- `TD_N`, R33 -/
  tdN : Nat
  /-- `TD_INCNT`, R34 -/
  tdIncnt : Nat
  /-- `TD_FS`, R35 -/
  tdFs : T
  /-- `TD_FRAME`, R36 -/
  tdFrame : BitVec 32
  /-- `TD_LO`, R37 -/
  tdLo : BitVec 24
  /-- `TD_HI`, R37 -/
  tdHi : BitVec 24
  /-- `TD_CTRL.WIN`, R38 -/
  tdWin : Bool
  /-- `TW`, R39 -/
  tw : Mem Cplx
  /-- `BR`, R39 -/
  br : Mem Nat
  /-- `WIN`, R39 -/
  win : Mem T
  /-- `IN`, R39 -/
  inp : Mem T
  /-- `WORK`, R39 -/
  work : Mem Cplx
  /-- `OUT`, R39 -/
  out : Mem T
  /-- `DWIN`, R40 -/
  dwin : Mem T
  /-- `DV`, R40 -/
  dv : Mem T
  /-- `TOP`, R40 -/
  top : Mem TopEntry
  /-- `B`, R41 -/
  b : T
  /-- `SRE`, R41 -/
  sre : T
  /-- `SIM`, R41 -/
  sim : T
  /-- `PRES`, R41 -/
  pres : T
  /-- `PSLOPE`, R41 -/
  pslope : T
  /-- `TOPCNT`, R41 -/
  topcnt : Nat
  /-- `CUR`, R42 -/
  cur : CmdWord
  /-- the model's: the agents' turns still to come, first first (R12, log 1) -/
  pending : List Event
  /-- the model's: the reset input is asserted (R60, R300, log 10) -/
  rst : Bool
  /-- the model's: what the port answered in the last step (R60, log 11) -/
  rsp : Response
  /-- the model's: how many free NaN values have been drawn (R115, log 3) -/
  nanDraws : Nat
deriving DecidableEq, Repr

/-- The state after a hard reset of a given build: the table of R44. The element memories are unspecified there and
carry nothing here (R300, log 4). -/
def State.resetOf (bld : Build) : State where
  build := bld
  busy := false
  unit := false
  teValid := false
  workValid := false
  outValid := false
  tdValid := false
  onsValid := false
  topValid := false
  opc := 0
  err := 0
  ecode := 0
  einfo := 0
  ie := 0
  ipDone := false
  seq := 0
  teN := 0
  teLog2n := 0
  teIncnt := 0
  tdN := 0
  tdIncnt := 0
  tdFs := 0
  tdFrame := 0
  tdLo := 0
  tdHi := 0
  tdWin := true
  tw := []
  br := []
  win := []
  inp := []
  work := []
  out := []
  dwin := []
  dv := []
  top := []
  b := 0
  sre := 0
  sim := 0
  pres := 0
  pslope := 0
  topcnt := 0
  cur := 0
  pending := []
  rst := false
  rsp := .none
  nanDraws := 0

/-- The machine right after reset (R44), for the build of log 2. -/
def State.reset : State := State.resetOf Config.resetBuild

end Sys2Proof.Machine
end

