-- ==== Sys2Proof/Machine/MicroOp.lean ====
section
/-! DEFINITION. The micro-operations and their operands (R98). They have no encoding; the lists are in the command
files. -/

namespace Sys2Proof.Machine

/-- The kinds of R98. -/
inductive MicroOp where
  /-- `TWGEN k`, R143 -/
  | twgen (k : Nat)
  /-- `BRGEN i`, R144 -/
  | brgen (i : Nat)
  /-- `WINGEN m`, R145 -/
  | wingen (m : Nat)
  /-- `DWGEN m`, R152 -/
  | dwgen (m : Nat)
  /-- `WLD i`, R162 -/
  | wld (i : Nat)
  /-- `BFLY s, q`, R166 -/
  | bfly (k q : Nat)
  /-- `MAGK k`, R170 -/
  | magk (k : Nat)
  /-- `ONS n`, R192 -/
  | ons (n : Nat)
  /-- `TOPCLR`, R200 -/
  | topclr
  /-- `CBEG i`, R202 -/
  | cbeg (i : Nat)
  /-- `COR i, n`, R203 -/
  | cor (i n : Nat)
  /-- `PEAK i`, R204 -/
  | peak (i : Nat)
deriving DecidableEq, Repr

end Sys2Proof.Machine
end

