-- ==== Sys2Proof/WellFormed.lean ====
section
/-! DEFINITION. Which terms of `Instr` a command word can carry: the argument fits its 24-bit field (R90, R91). -/

namespace Sys2Proof

/-- The check of R91: `arg` is an unsigned integer from 0 to 16777215. The eight commands without an argument
have nothing to check. -/
def Instr.wf : Instr → Bool
  | .nop => true
  | .teInit n => n < 2 ^ 24
  | .teWinld => true
  | .teStage k => k < 2 ^ 24
  | .teMag => true
  | .teXform => true
  | .tdInit n => n < 2 ^ 24
  | .tdOnset => true
  | .tdSweep => true
  | .tdDetect => true
  | .reset => true

end Sys2Proof
end

