-- ==== Sys2Proof/Decode.lean ====
section
/-! DEFINITION. The decoder of R93, total on 32-bit words and rejecting by name (R94), and the encoder of R92. -/

namespace Sys2Proof

/-- Why a word is RESERVED (R94). -/
inductive DecodeError where
  /-- an opcode that is not in the map of R92 -/
  | reservedOpcode (op : BitVec 8)
  /-- an argument-free opcode with a non-zero argument -/
  | nonzeroArgument (op : BitVec 8) (arg : BitVec 24)
deriving DecidableEq, Repr

/-- `c[31:24]`, R90. -/
def opField (c : CmdWord) : BitVec 8 := c.extractLsb' 24 8

/-- `c[23:0]`, R90. -/
def argField (c : CmdWord) : BitVec 24 := c.extractLsb' 0 24

/-- A command without an argument: `arg` must be 0 (R93). -/
def decodeNoArg (c : CmdWord) (i : Instr) : Except DecodeError Instr :=
  if argField c = 0 then .ok i else .error (.nonzeroArgument (opField c) (argField c))

/-- `decode` of R93. -/
def decode (c : CmdWord) : Except DecodeError Instr :=
  if opField c = 0x00 then decodeNoArg c .nop
  else if opField c = 0x01 then .ok (.teInit (argField c).toNat)
  else if opField c = 0x02 then decodeNoArg c .teWinld
  else if opField c = 0x03 then .ok (.teStage (argField c).toNat)
  else if opField c = 0x04 then decodeNoArg c .teMag
  else if opField c = 0x05 then decodeNoArg c .teXform
  else if opField c = 0x11 then .ok (.tdInit (argField c).toNat)
  else if opField c = 0x12 then decodeNoArg c .tdOnset
  else if opField c = 0x13 then decodeNoArg c .tdSweep
  else if opField c = 0x14 then decodeNoArg c .tdDetect
  else if opField c = 0x7F then decodeNoArg c .reset
  else .error (.reservedOpcode (opField c))

/-- The opcode column of R92. -/
def Instr.op : Instr → BitVec 8
  | .nop => 0x00
  | .teInit _ => 0x01
  | .teWinld => 0x02
  | .teStage _ => 0x03
  | .teMag => 0x04
  | .teXform => 0x05
  | .tdInit _ => 0x11
  | .tdOnset => 0x12
  | .tdSweep => 0x13
  | .tdDetect => 0x14
  | .reset => 0x7F

/-- The argument column of R92; 0 where `arg` must be 0. -/
def Instr.arg : Instr → Nat
  | .nop => 0
  | .teInit n => n
  | .teWinld => 0
  | .teStage k => k
  | .teMag => 0
  | .teXform => 0
  | .tdInit n => n
  | .tdOnset => 0
  | .tdSweep => 0
  | .tdDetect => 0
  | .reset => 0

/-- The word a command assembles to, `(op << 24) or arg` (R96). -/
def encode (i : Instr) : CmdWord := i.op ++ BitVec.ofNat 24 i.arg

/-- The command the decoder reads from the low 32 bits of `w` (R90: the higher bits are ignored). A command word
has 32 bits, so bits above `nbits` are 0. -/
def decodeTableWord (nbits w : Nat) : Option Instr :=
  match decode (BitVec.ofNat 32 (w % 2 ^ nbits)) with
  | .ok i => some i
  | .error _ => none

end Sys2Proof
end

