-- ==== Sys2Proof/Machine/Float.lean ====
section
/-! DEFINITION. The floating-point primitives of 40_numerics.md, sections 1 and 2 (R110 to R121, R126): IEEE 754
binary32 and binary64 by exact integer arithmetic and one rounding, to nearest, ties to even. -/

namespace Sys2Proof.Machine

/-- `FLEN` as a number of bits (R110). -/
def flenBits : Flen → Nat
  | .w32 => 32
  | .w64 => 64

/-- The width of the exponent field (R110). -/
def expBits : Flen → Nat
  | .w32 => 8
  | .w64 => 11

/-- The width of the fraction field (R110). -/
def fracBits : Flen → Nat
  | .w32 => 23
  | .w64 => 52

/-- The exponent of the unit in the last place of a subnormal: -149 or -1074 (R110, R114). -/
def expMin : Flen → Int
  | .w32 => -149
  | .w64 => -1074

/-- The bit pattern of +infinity: exponent field all ones, fraction 0 (R110). -/
def infPattern (f : Flen) : Nat := (2 ^ expBits f - 1) * 2 ^ fracBits f

/-- What a bit pattern denotes: a NaN, an infinity, or the number `(-1)^neg * m * 2^e`. -/
inductive FVal where
  /-- a NaN, quiet or signalling -/
  | nan
  /-- an infinity -/
  | inf (neg : Bool)
  /-- a finite number; `m = 0` is a signed zero -/
  | fin (neg : Bool) (m : Nat) (e : Int)
deriving DecidableEq, Repr

/-- The low `FLEN` bits of a word: what a `T` register or element keeps of it (R23, R68, R73). -/
def truncT (f : Flen) (w : Word) : T :=
  match f with
  | .w32 => (w.extractLsb' 0 32).zeroExtend 64
  | .w64 => w

/-- Reading a bit pattern (R110). -/
def unpack (f : Flen) (w : T) : FVal :=
  let frac := w.toNat % 2 ^ fracBits f
  let ex := w.toNat / 2 ^ fracBits f % 2 ^ expBits f
  let neg := decide (w.toNat / 2 ^ (flenBits f - 1) % 2 = 1)
  if ex = 2 ^ expBits f - 1 then
    if frac = 0 then .inf neg else .nan
  else if ex = 0 then .fin neg frac (expMin f)
  else .fin neg (frac + 2 ^ fracBits f) (expMin f + (ex - 1 : Nat))

/-- A pattern from its sign and its magnitude bits. -/
def packT (f : Flen) (neg : Bool) (mag : Nat) : T :=
  BitVec.ofNat 64 (cond neg (2 ^ (flenBits f - 1)) 0 + mag)

/-- `m / 2^k` rounded to the nearest integer, ties to even, for `k >= 1`; `sticky` says that the exact number lies
above `m` by less than one (R111). -/
def roundShift (m k : Nat) (sticky : Bool) : Nat :=
  let quo := m / 2 ^ k
  let rem := m % 2 ^ k
  let half := 2 ^ (k - 1)
  if half < rem ∨ (rem = half ∧ (sticky = true ∨ quo % 2 = 1)) then quo + 1 else quo

/-- The magnitude bits of `m * 2^e` rounded to the nearest `T`, ties to even, with gradual underflow, and with
overflow to infinity (R111, R113, R114). With `sticky`, the number lies above `m * 2^e` by less than `2^e`; a caller
that sets it gives `m` at least two bits more than a significand. -/
def roundMag (f : Flen) (m : Nat) (e : Int) (sticky : Bool) : Nat :=
  if m = 0 then 0
  else
    let q : Int := max (e + (Nat.log2 m : Int) - (fracBits f : Int)) (expMin f)
    let mant := if q ≤ e then m * 2 ^ (e - q).toNat else roundShift m (q - e).toNat sticky
    min ((q - expMin f).toNat * 2 ^ fracBits f + mant) (infPattern f)

/-- The free value of R115: a quiet NaN whose sign and payload come from draw `d` (log 3). A NaN is quiet when the
first bit of its fraction is 1 (log 14). -/
def quietNaN (f : Flen) (d : Nat) : T :=
  match f with
  | .w32 => (Config.freeNaN d &&& 0x00000000803FFFFF) ||| 0x000000007FC00000
  | .w64 => (Config.freeNaN d &&& 0x8007FFFFFFFFFFFF) ||| 0x7FF8000000000000

/-- `+inf` or `-inf`. -/
def infT (f : Flen) (neg : Bool) : T := packT f neg (infPattern f)

/-- `+0` or `-0`. -/
def zeroT (f : Flen) (neg : Bool) : T := packT f neg 0

/-- A number with its sign, as an integer. -/
def signed (neg : Bool) (m : Nat) : Int := if neg then -(m : Int) else (m : Int)

/-- The sign bit inverted. -/
def negT (f : Flen) (a : T) : T := a ^^^ BitVec.ofNat 64 (2 ^ (flenBits f - 1))

/-- `FADD(a, b)`, R111, R115, R116; `d` numbers the draw of a NaN result. -/
def fadd (f : Flen) (d : Nat) (a b : T) : T :=
  match unpack f a, unpack f b with
  | .nan, _ => quietNaN f d
  | _, .nan => quietNaN f d
  | .inf s, .inf t => if s = t then infT f s else quietNaN f d
  | .inf s, .fin _ _ _ => infT f s
  | .fin _ _ _, .inf t => infT f t
  | .fin s m x, .fin t n y =>
    let e := min x y
    let z := signed s (m * 2 ^ (x - e).toNat) + signed t (n * 2 ^ (y - e).toNat)
    if z = 0 then zeroT f (s && t)
    else packT f (decide (z < 0)) (roundMag f z.natAbs e false)

/-- `FSUB(a, b)`: the sum of `a` and `b` with its sign inverted, which is what IEEE 754 defines (R111, R116). -/
def fsub (f : Flen) (d : Nat) (a b : T) : T := fadd f d a (negT f b)

/-- `FMUL(a, b)`, R111, R115, R116. -/
def fmul (f : Flen) (d : Nat) (a b : T) : T :=
  match unpack f a, unpack f b with
  | .nan, _ => quietNaN f d
  | _, .nan => quietNaN f d
  | .inf s, .inf t => infT f (s ^^ t)
  | .inf s, .fin t n _ => if n = 0 then quietNaN f d else infT f (s ^^ t)
  | .fin s m _, .inf t => if m = 0 then quietNaN f d else infT f (s ^^ t)
  | .fin s m x, .fin t n y => packT f (s ^^ t) (roundMag f (m * n) (x + y) false)

/-- `FDIV(a, b)`, R111, R113, R115. -/
def fdiv (f : Flen) (d : Nat) (a b : T) : T :=
  match unpack f a, unpack f b with
  | .nan, _ => quietNaN f d
  | _, .nan => quietNaN f d
  | .inf _, .inf _ => quietNaN f d
  | .inf s, .fin t _ _ => infT f (s ^^ t)
  | .fin s _ _, .inf t => zeroT f (s ^^ t)
  | .fin s m x, .fin t n y =>
    if n = 0 then
      if m = 0 then quietNaN f d else infT f (s ^^ t)
    else
      let k := fracBits f + 3 + Nat.log2 n
      let num := m * 2 ^ k
      packT f (s ^^ t) (roundMag f (num / n) (x - y - (k : Int)) (decide (num % n ≠ 0)))

/-- The integer square root, one bit a step from bit `k - 1` down: the largest `r + j` with `j < 2^k` and
`(r + j)^2 <= n`. -/
def isqrtFrom (n : Nat) : Nat → Nat → Nat
  | 0, r => r
  | k + 1, r => isqrtFrom n k (if (r + 2 ^ k) * (r + 2 ^ k) ≤ n then r + 2 ^ k else r)

/-- The integer square root. -/
def isqrt (n : Nat) : Nat := isqrtFrom n (Nat.log2 n / 2 + 1) 0

/-- `FSQRT(a)`, R111, R115, R116. -/
def fsqrt (f : Flen) (d : Nat) (a : T) : T :=
  match unpack f a with
  | .nan => quietNaN f d
  | .inf true => quietNaN f d
  | .inf false => infT f false
  | .fin s m x =>
    if m = 0 then zeroT f s
    else if s then quietNaN f d
    else
      let k := 2 * (fracBits f + 3) + (x % 2).toNat
      let n := m * 2 ^ k
      let r := isqrt n
      packT f false (roundMag f r ((x - (k : Int)) / 2) (decide (r * r ≠ n)))

/-- Is the pattern a NaN? -/
def isNaN (f : Flen) (a : T) : Bool := decide (unpack f a = .nan)

/-- Numbers and infinities in their order, the two zeros equal (R117). -/
def orderKey (f : Flen) (a : T) : Int :=
  signed (decide (a.toNat / 2 ^ (flenBits f - 1) % 2 = 1)) (a.toNat % 2 ^ (flenBits f - 1))

/-- `FGT(a, b)`, R117. -/
def fgt (f : Flen) (a b : T) : Bool :=
  !isNaN f a && !isNaN f b && decide (orderKey f b < orderKey f a)

/-- `FLE(a, b)`, R117. -/
def fle (f : Flen) (a b : T) : Bool :=
  !isNaN f a && !isNaN f b && decide (orderKey f a ≤ orderKey f b)

/-- "a finite value greater than zero", the test of R198 on `TD_FS`. -/
def finitePositive (f : Flen) (a : T) : Bool :=
  match unpack f a with
  | .fin false m _ => decide (m ≠ 0)
  | _ => false

/-- `CVT(u)`, R118. -/
def cvt (f : Flen) (u : Nat) : T := packT f false (roundMag f u 0 false)

/-- The pattern of the `T` nearest to the decimal number `(-1)^neg * m * 10^e`, ties to even (the values `f:<decimal>` of
R97, log 20). -/
def decimalT (f : Flen) (neg : Bool) (m : Nat) (e : Int) : T :=
  if 0 ≤ e then packT f neg (roundMag f (m * 10 ^ e.toNat) 0 false)
  else
    let den := 10 ^ (-e).toNat
    let k := fracBits f + 3 + Nat.log2 den
    let num := m * 2 ^ k
    packT f neg (roundMag f (num / den) (-(k : Int)) (decide (num % den ≠ 0)))

/-- `ONSMAX(d)`, R126. -/
def onsmax (f : Flen) (a : T) : T := if fgt f a (zeroT f false) then a else zeroT f false

/-- `CMUL(t, u)`, R119: six operations, draws `d` to `d + 5`. -/
def cmul (f : Flen) (d : Nat) (t u : Cplx) : Cplx where
  re := fsub f (d + 2) (fmul f d t.re u.re) (fmul f (d + 1) t.im u.im)
  im := fadd f (d + 5) (fmul f (d + 3) t.re u.im) (fmul f (d + 4) t.im u.re)

/-- `CADD(x, y)`, R120: draws `d` and `d + 1`. -/
def cadd (f : Flen) (d : Nat) (x y : Cplx) : Cplx where
  re := fadd f d x.re y.re
  im := fadd f (d + 1) x.im y.im

/-- `CSUB(x, y)`, R120: draws `d` and `d + 1`. -/
def csub (f : Flen) (d : Nat) (x y : Cplx) : Cplx where
  re := fsub f d x.re y.re
  im := fsub f (d + 1) x.im y.im

/-- `CABS(z)`, R121: draws `d` to `d + 3`. -/
def cabs (f : Flen) (d : Nat) (z : Cplx) : T :=
  fsqrt f (d + 3) (fadd f (d + 2) (fmul f d z.re z.re) (fmul f (d + 1) z.im z.im))

end Sys2Proof.Machine
end

