-- ==== Sys2Proof/Machine/Ops.lean ====
section
/-! DEFINITION. The named operations over memories and registers that every command shares: element reads and
writes, refusing with an error (`raise`, R262), acceptance (R233), the common part of completion (R235), the two
resets (R241, R300). -/

namespace Sys2Proof.Machine

/-- The element at an index, if one has been written. -/
def memRead {α : Type} : Mem α → Nat → Option α
  | [], _ => none
  | (k, v) :: m, i => if k = i then some v else memRead m i

/-- Write an element, keeping the indices strictly rising. -/
def memWrite {α : Type} : Mem α → Nat → α → Mem α
  | [], i, v => [(i, v)]
  | (k, w) :: m, i, v =>
    if i < k then (i, v) :: (k, w) :: m
    else if i = k then (i, v) :: m
    else (k, w) :: memWrite m i v

/-- The canonical form of an element memory: the listed indices rise strictly. -/
def Mem.wf {α : Type} : Mem α → Bool
  | [] => true
  | (k, _) :: m => m.all (fun c => decide (k < c.1)) && Mem.wf m

/-- Read an element that must have been written (R45); a read of one that nothing has written stops (log 4). -/
def readElem {α : Type} (name : MemName) (m : Mem α) (i : Nat) : Except Fault α :=
  match memRead m i with
  | some v => .ok v
  | none => .error (.unwritten name i)

/-- The outcome of a step that can only go on or stop with a fault. -/
def ofExcept (r : Except Fault State) : Host.Outcome State Fault Refusal :=
  match r with
  | .ok s => .next s
  | .error e => .fault e

/-- The code of an error, which is also the number of its flag in `ERR` (R261). -/
def ErrCode.code : ErrCode → Nat
  | .opc => 1
  | .busy => 2
  | .cfg => 3
  | .size => 4
  | .seq => 5
  | .ovf => 6
  | .acc => 7
  | .arg => 8

/-- `raise E_x(info)`, R262: the one way an error is reported. The flag is set; the first error since `ECODE` was 0
is recorded; nothing else changes. -/
def raise (e : ErrCode) (info : BitVec 32) (s : State) : State :=
  { s with
    err := s.err ||| (1#32 <<< e.code)
    ecode := if s.ecode = 0 then BitVec.ofNat 8 e.code else s.ecode
    einfo := if s.ecode = 0 then info else s.einfo }

/-- The host's write of ones to `ERR`, R68 and R266: clears the flags of bits 8 to 1 that `v` names, and with the last
flag the record. -/
def clearErrors (v : BitVec 32) (s : State) : State :=
  let err := s.err &&& ~~~(v &&& 0x000001FE)
  { s with
    err := err
    ecode := if err = 0 then 0 else s.ecode
    einfo := if err = 0 then 0 else s.einfo }

/-- Does the opcode belong to the detector unit? R233: `0x11` to `0x14`. -/
def isTdOpcode (op : BitVec 8) : Bool := decide (0x11 ≤ op.toNat ∧ op.toNat ≤ 0x14)

/-- Acceptance of a command word, R233. -/
def accept (c : CmdWord) (s : State) : State :=
  { s with
    cur := c
    seq := 0
    busy := true
    opc := opField c
    unit := isTdOpcode (opField c) }

/-- The issue of a decoded command other than `RESET`, R233: `E_BUSY` while busy, else the first acceptance check that
fails, else acceptance. -/
def issue (i : Instr) (check : Option ErrCode) (s : State) : State :=
  if s.busy then raise .busy (encode i) s
  else
    match check with
    | some e => raise e (encode i) s
    | none => accept (encode i) s

/-- The part of the completion step that every command shares, R235. -/
def finish (s : State) : State :=
  { s with busy := false, unit := false, opc := 0, seq := 0, ipDone := true }

/-- The argument of the latched command, `CUR.arg` (R42). -/
def curArg (s : State) : Nat := (argField s.cur).toNat

/-- The soft reset of R241 and R301: every register and hidden element at its hard-reset value, the element memories
kept. The build, the port and the agents' turns are outside the reset. -/
def softReset (s : State) : State :=
  { State.resetOf s.build with
    tw := s.tw, br := s.br, win := s.win, inp := s.inp, work := s.work, out := s.out
    dwin := s.dwin, dv := s.dv, top := s.top
    pending := s.pending, rst := s.rst, rsp := s.rsp, nanDraws := s.nanDraws }

/-- The hard reset of R300: the state of R44; the memories lose their contents (log 4). -/
def hardReset (s : State) : State :=
  { State.resetOf s.build with
    pending := s.pending, rst := s.rst, rsp := s.rsp, nanDraws := s.nanDraws }

/-- Use up `k` draws of the free NaN values (log 3). -/
def draw (k : Nat) (s : State) : State := { s with nanDraws := s.nanDraws + k }

end Sys2Proof.Machine
end

