-- ==== Sys2Proof/Machine/Operands.lean ====
section
/-! DEFINITION. The operand forms: the index arithmetic of the micro-operations (R130, R144, R162, R167, R203), and the
addresses of the host port: spaces (R61, R62), visible extents (R65), the register table (R23). -/

namespace Sys2Proof.Machine

/-- `BITREV(L, i)`, R144: bit `b` of `i` becomes bit `L - 1 - b`. -/
def bitrev : Nat → Nat → Nat
  | 0, _ => 0
  | l + 1, i => i % 2 * 2 ^ l + bitrev l (i / 2)

/-- `min(r, N - r)`, the folded index of R162 and R203. -/
def foldIdx (r n : Nat) : Nat := min r (n - r)

/-- The butterfly distance `stage = 2^s`, R167. -/
def bflyStage (k : Nat) : Nat := 2 ^ k

/-- `lower` of R167. -/
def bflyLower (k q : Nat) : Nat := q / bflyStage k * (2 * bflyStage k) + q % bflyStage k

/-- `upper` of R167. -/
def bflyUpper (k q : Nat) : Nat := bflyLower k q + bflyStage k

/-- `twidx` of R167. -/
def bflyTwidx (n k q : Nat) : Nat := q % bflyStage k * (n / (2 * bflyStage k))

/-- The number of candidates of a sweep, `max(0, TD_HI - TD_LO)` (R196). -/
def candidates (s : State) : Nat := s.tdHi.toNat - s.tdLo.toNat

/-- The space of an address, `A[31:28]` (R61). -/
def addrSpace (a : Addr) : Nat := (a.extractLsb' 28 4).toNat

/-- The word index of an address, `A[27:0]` (R61). -/
def addrIdx (a : Addr) : Nat := (a.extractLsb' 0 28).toNat

/-- The element memory of a space other than 0; none where the space is unmapped (R62). -/
def memOfSpace (space : Nat) : Option MemName :=
  match space with
  | 0x1 => some .tw
  | 0x2 => some .br
  | 0x3 => some .win
  | 0x4 => some .inp
  | 0x5 => some .work
  | 0x6 => some .out
  | 0x8 => some .dwin
  | 0x9 => some .dv
  | 0xA => some .top
  | _ => none

/-- `EXT(space)` in words for a mapped space, R65. -/
def extentOf (s : State) : MemName → Nat
  | .tw => if s.teValid then s.teN else 0
  | .br => if s.teValid then s.teN else 0
  | .win => if s.teValid then s.teN / 2 + 1 else 0
  | .inp => s.teIncnt
  | .work => if s.workValid then 2 * s.teN else 0
  | .out => if s.outValid then s.teN / 2 + 1 else 0
  | .dwin => if s.tdValid then s.tdN / 2 + 1 else 0
  | .dv => s.tdIncnt
  | .top => if s.topValid then 2 * s.build.slots else 0

/-- The 21 registers of R23. -/
inductive Reg where
  | cap | status | cmd | err | ecode | einfo | ie | ip | seq
  | teN | teLog2n | teIncnt | tePush
  | tdN | tdIncnt | tdPush | tdFs | tdFrame | tdLo | tdHi | tdCtrl
deriving DecidableEq, Repr

/-- The register table of R23; every other index of space 0 is unmapped. -/
def regAt (idx : Nat) : Option Reg :=
  match idx with
  | 0x00 => some .cap
  | 0x01 => some .status
  | 0x02 => some .cmd
  | 0x03 => some .err
  | 0x04 => some .ecode
  | 0x05 => some .einfo
  | 0x06 => some .ie
  | 0x07 => some .ip
  | 0x08 => some .seq
  | 0x10 => some .teN
  | 0x11 => some .teLog2n
  | 0x12 => some .teIncnt
  | 0x13 => some .tePush
  | 0x18 => some .tdN
  | 0x19 => some .tdIncnt
  | 0x1A => some .tdPush
  | 0x1B => some .tdFs
  | 0x1C => some .tdFrame
  | 0x1D => some .tdLo
  | 0x1E => some .tdHi
  | 0x1F => some .tdCtrl
  | _ => none

/-- The access kind `RO` of R23: a host write is refused with `E_ACC` (R68). -/
def Reg.readOnly : Reg → Bool
  | .cap | .status | .ecode | .einfo | .seq | .teN | .teLog2n | .teIncnt | .tdN | .tdIncnt => true
  | .cmd | .err | .ie | .ip | .tePush | .tdPush | .tdFs | .tdFrame | .tdLo | .tdHi | .tdCtrl => false

/-- The registers whose write is refused with `E_BUSY` while a command runs (R68, R232). -/
def Reg.lockedWhileBusy : Reg → Bool
  | .tePush | .tdPush | .tdFs | .tdFrame | .tdLo | .tdHi | .tdCtrl => true
  | .cap | .status | .cmd | .err | .ecode | .einfo | .ie | .ip | .seq | .teN | .teLog2n | .teIncnt
  | .tdN | .tdIncnt => false

end Sys2Proof.Machine
end

