-- ==== Sys2Proof/Machine/Trig.lean ====
section
/-! DEFINITION. The table and rotation functions of 40_numerics.md, section 3 (R122 to R125): the reference instance
of `NUM`, by integer enclosures of sine and cosine that are narrowed until both ends round to the same `T` (log 6),
and the choice of the instance a build has (R124, log 7). -/

namespace Sys2Proof.Machine

/-- A real number of [0, 1] between `lo / 2^prec` and `hi / 2^prec`. -/
structure Enclosure where
  /-- numerator of the lower end -/
  lo : Nat
  /-- numerator of the upper end -/
  hi : Nat
  /-- both ends are over `2^prec` -/
  prec : Nat
deriving DecidableEq, Repr

/-- The sum `arctan(1/x) * one` of the alternating series, from `pw = one / x^k`. -/
def arctanSeries (x : Nat) : Nat → Nat → Nat → Nat
  | 0, _, _ => 0
  | fuel + 1, k, pw => pw / k - arctanSeries x fuel (k + 2) (pw / (x * x))

/-- `π * 2^b`, by Machin's formula with 32 guard bits; off by less than two. -/
def piFixed (b : Nat) : Nat :=
  let one := 2 ^ (b + 32)
  let fuel := (b + 32) / 4 + 2
  (16 * arctanSeries 5 fuel 1 (one / 5) - 4 * arctanSeries 239 fuel 1 (one / 239)) / 2 ^ 32

/-- The alternating series of sine (`k = 2`, `t = x`) and cosine (`k = 1`, `t = 1`) in fixed point with `p` fraction
bits: `t - t x²/(k (k+1)) + ...`, where `x2` is `x²`. It ends when a term vanishes. -/
def alternating (p x2 : Nat) : Nat → Nat → Nat → Nat
  | 0, _, _ => 0
  | fuel + 1, k, t =>
    if t = 0 then 0 else t - alternating p x2 fuel (k + 2) (t * x2 / 2 ^ p / (k * (k + 1)))

/-- The angle `num/den * π/4` in fixed point with `p` fraction bits, from `base + 8` bits of π. -/
def angleFixed (base p num den : Nat) : Nat :=
  num * piFixed (base + 8) * 2 ^ p / (den * 2 ^ (base + 10))

/-- The ends of an enclosure `2^16` units to either side of a fixed-point value, cut off at 0 and 1. -/
def around (v p : Nat) : Enclosure where
  lo := min (v - 2 ^ 16) (2 ^ p)
  hi := min (v + 2 ^ 16) (2 ^ p)
  prec := p

/-- `sin(num/den * π/4)` for `0 < num <= den`, with about `base` significant bits. -/
def sinOctant (base num den : Nat) : Enclosure :=
  let p := base + (Nat.log2 den - Nat.log2 num) + 1
  let x := angleFixed base p num den
  around (alternating p (x * x / 2 ^ p) (base / 2 + 4) 2 x) p

/-- `cos(num/den * π/4)` for `0 < num <= den`, to about `base` bits. -/
def cosOctant (base num den : Nat) : Enclosure :=
  let x := angleFixed base base num den
  around (alternating base (x * x / 2 ^ base) (base / 2 + 4) 1 (2 ^ base)) base

/-- An angle of the unit circle reduced to the first octant: the octant it lies in, and the distance `num/den * π/4`
to the axis next to it, `0 <= num <= den`. -/
structure Octant where
  /-- 0 to 7, counted from the positive real axis -/
  idx : Nat
  /-- numerator of the distance to the nearest axis, in units of π/4 -/
  num : Nat
  /-- its denominator -/
  den : Nat
deriving DecidableEq, Repr

/-- The angle of `p/q` turns. -/
def octantOf (p q : Nat) : Octant :=
  let eighths := 8 * (p % q)
  let o := eighths / q
  let rem := eighths - o * q
  { idx := o, num := if o % 2 = 0 then rem else q - rem, den := q }

/-- In octants 1, 2, 5 and 6 the nearest axis is the imaginary one, so sine and cosine change places. -/
def Octant.swapped (o : Octant) : Bool := decide ((o.idx + 1) % 4 / 2 = 1)

/-- Is the cosine negative? Octants 2 to 5. -/
def Octant.cosNeg (o : Octant) : Bool := decide ((o.idx + 2) % 8 / 4 = 1)

/-- Is the sine negative? Octants 4 to 7. -/
def Octant.sinNeg (o : Octant) : Bool := decide (o.idx % 8 / 4 = 1)

/-- The ladder of working precisions. -/
def precisions : List Nat := [96, 192, 512, 2048]

/-- `RN` of R122 for a number of [0, 1]: the magnitude bits both ends of the enclosure round to, at the first
precision where they agree. Where even the last does not decide, one of its two neighbours, freely (log 6). -/
def rnEnclosed (f : Flen) (enc : Nat → Enclosure) : List Nat → Nat
  | [] => 0
  | b :: bs =>
    let x := enc b
    let lo := roundMag f x.lo (-(x.prec : Int)) false
    let hi := roundMag f x.hi (-(x.prec : Int)) false
    if lo = hi then lo
    else if bs = [] then (if Config.undecidedDown x.lo x.hi x.prec then lo else hi)
    else rnEnclosed f enc bs

/-- `RN(|sin|)` of the reduced angle, exact at 0. -/
def sinMag (f : Flen) (num den : Nat) : Nat :=
  if num = 0 then 0 else rnEnclosed f (fun b => sinOctant b num den) precisions

/-- `RN(|cos|)` of the reduced angle, exact at 0. -/
def cosMag (f : Flen) (num den : Nat) : Nat :=
  if num = 0 then roundMag f 1 0 false else rnEnclosed f (fun b => cosOctant b num den) precisions

/-- A rounded number with its sign; `exact0` says that the real number is 0, and then the result is `+0` (R122). -/
def signedT (f : Flen) (neg exact0 : Bool) (mag : Nat) : T := packT f (neg && !exact0) mag

/-- `(RN(cos 2πr), RN(-sin 2πr))` for `r = p/q` turns: the common form of R122 and R125. -/
def rotation (f : Flen) (p q : Nat) : Cplx :=
  let o := octantOf p q
  if o.swapped then
    { re := signedT f o.cosNeg (o.num == 0) (sinMag f o.num o.den)
      im := signedT f (!o.sinNeg) false (cosMag f o.num o.den) }
  else
    { re := signedT f o.cosNeg false (cosMag f o.num o.den)
      im := signedT f (!o.sinNeg) (o.num == 0) (sinMag f o.num o.den) }

/-- The reference `TWID(N, k)`, R122. -/
def refTwid (f : Flen) (n k : Nat) : Cplx := rotation f k n

/-- The square of a number of [0, 1]. -/
def Enclosure.square (x : Enclosure) : Enclosure where
  lo := x.lo * x.lo
  hi := x.hi * x.hi
  prec := 2 * x.prec

/-- The reference `HANN(N, m)`, R123, as `RN(sin²(πm/N))`, which is `(1 - cos(2πm/N)) / 2`. DESIGN CHOICE (log 18): for
long odd N the value at `m = (N - 1)/2` rounds to exactly 1 in binary32, although R152 says that then no entry of
`DWIN` equals 1; the model follows the formula of R123. -/
def refHann (f : Flen) (n m : Nat) : T :=
  let o := octantOf m (2 * n)
  packT f false
    (if o.swapped then
      if o.num = 0 then roundMag f 1 0 false
      else rnEnclosed f (fun b => (cosOctant b o.num o.den).square) precisions
    else
      if o.num = 0 then 0
      else rnEnclosed f (fun b => (sinOctant b o.num o.den).square) precisions)

/-- What `ROT` gives outside the domain of R125: a free pair (log 8). -/
def rotFree (f : Flen) (b : T) (n : Nat) (fs : T) : Cplx :=
  { re := truncT f (Config.rotOutside f b n fs).1, im := truncT f (Config.rotOutside f b n fs).2 }

/-- The reference `ROT(b, n, fs)`, R125, with the exact angle `b * n / fs` turns. The domain is finite `b >= 0`, the zero
`-0` among them (R117), and finite `fs > 0`; outside it the pair is free (log 8). -/
def refRot (f : Flen) (b : T) (n : Nat) (fs : T) : Cplx :=
  match unpack f b, unpack f fs with
  | .fin s m x, .fin false k y =>
    if (s = true ∧ m ≠ 0) ∨ k = 0 then rotFree f b n fs
    else rotation f (m * n * 2 ^ (x - y).toNat) (k * 2 ^ (y - x).toNat)
  | _, _ => rotFree f b n fs

/-- `TWID(N, k)` of the build's numerics configuration (R124). -/
def twid (bld : Build) (n k : Nat) : Cplx :=
  match bld.num with
  | .reference => refTwid bld.flen n k
  | .other id =>
    { re := truncT bld.flen (Config.otherTwid id bld.flen n k).1
      im := truncT bld.flen (Config.otherTwid id bld.flen n k).2 }

/-- `HANN(N, m)` of the build's numerics configuration (R124). -/
def hann (bld : Build) (n m : Nat) : T :=
  match bld.num with
  | .reference => refHann bld.flen n m
  | .other id => truncT bld.flen (Config.otherHann id bld.flen n m)

/-- `ROT(b, n, fs)` of the build's numerics configuration (R124). -/
def rot (bld : Build) (b : T) (n : Nat) (fs : T) : Cplx :=
  match bld.num with
  | .reference => refRot bld.flen b n fs
  | .other id =>
    { re := truncT bld.flen (Config.otherRot id bld.flen b n fs).1
      im := truncT bld.flen (Config.otherRot id bld.flen b n fs).2 }

end Sys2Proof.Machine
end

