-- ==== Sys2Proof/Machine/Detector.lean ====
section
/-! DEFINITION. The detector commands `TD.ONSET`, `TD.SWEEP` and `TD.DETECT` (43_detector.md). -/

namespace Sys2Proof.Machine

/-- `ONS n`, R192. -/
def doOns (n : Nat) (s : State) : Except Fault State := do
  let x ← readElem .dv s.dv n
  let y ← readElem .dv s.dv (n - 1)
  .ok (draw 1 { s with dv := memWrite s.dv n (onsmax s.build.flen (fsub s.build.flen s.nanDraws x y)) })

/-- The empty entry `(+0, 0)` of R200. -/
def emptyEntry (f : Flen) : TopEntry := { str := zeroT f false, cand := 0 }

/-- `for r in 0 .. k-1: TOP[r] <- (+0, 0)`, R200. -/
def clearTop (f : Flen) : Nat → Mem TopEntry → Mem TopEntry
  | 0, m => m
  | r + 1, m => memWrite (clearTop f r m) r (emptyEntry f)

/-- `TOPCLR`, R200. -/
def doTopclr (s : State) : State :=
  { s with
    top := clearTop s.build.flen s.build.slots s.top
    topcnt := 0
    pres := zeroT s.build.flen false
    pslope := zeroT s.build.flen false }

/-- `CBEG i`, R202. -/
def doCbeg (i : Nat) (s : State) : State :=
  draw 1
    { s with
      b := fdiv s.build.flen s.nanDraws (cvt s.build.flen i) (cvt s.build.flen s.tdLo.toNat)
      sre := zeroT s.build.flen false
      sim := zeroT s.build.flen false }

/-- The weighted series value `a` of R203. -/
def corTerm (s : State) (n : Nat) : Except Fault T := do
  let x ← readElem .dv s.dv n
  if s.tdWin then
    let w ← readElem .dwin s.dwin (foldIdx n s.tdN)
    .ok (fmul s.build.flen s.nanDraws x w)
  else .ok x

/-- `COR i, n`, R203. The candidate acts through `B`, which `CBEG i` has written. -/
def doCor (n : Nat) (s : State) : Except Fault State := do
  let a ← corTerm s n
  let r := rot s.build s.b n s.tdFs
  let f := s.build.flen
  .ok (draw 5
    { s with
      sre := fadd f (s.nanDraws + 2) s.sre (fmul f (s.nanDraws + 1) a r.re)
      sim := fadd f (s.nanDraws + 4) s.sim (fmul f (s.nanDraws + 3) a r.im) })

/-- The number of `r` in `0 .. cnt-1` with `not FGT(str, TOP[r].str)`, R205. -/
def countNotWeaker (f : Flen) (str : T) (m : Mem TopEntry) : Nat → Except Fault Nat
  | 0 => .ok 0
  | r + 1 => do
    let c ← countNotWeaker f str m r
    let e ← readElem .top m r
    .ok (if fgt f str e.str then c else c + 1)

/-- `for r from p + k down to p + 1: TOP[r] <- TOP[r-1]`, R205. -/
def shiftTop (p : Nat) : Nat → Mem TopEntry → Except Fault (Mem TopEntry)
  | 0, m => .ok m
  | k + 1, m => do
    let e ← readElem .top m (p + k)
    shiftTop p k (memWrite m (p + k + 1) e)

/-- The part of `INSERT` of R205 after the number `cnt` of entries that stay is known. -/
def insertAmong (cnt : Nat) (str : T) (cand : BitVec 24) (s : State) : Except Fault State := do
  let p ← countNotWeaker s.build.flen str s.top cnt
  let m ← shiftTop p (cnt - p) s.top
  .ok { s with top := memWrite m p { str := str, cand := cand }, topcnt := cnt + 1 }

/-- `INSERT(str, cand)`, R205. -/
def insertTop (str : T) (cand : BitVec 24) (s : State) : Except Fault State :=
  if s.topcnt = s.build.slots then do
    let e ← readElem .top s.top (s.build.slots - 1)
    if fgt s.build.flen str e.str then insertAmong (s.build.slots - 1) str cand s else .ok s
  else insertAmong s.topcnt str cand s

/-- "previous slope positive, current slope <= 0", R204. -/
def slopeTurned (f : Flen) (pslope slope : T) : Bool :=
  fgt f pslope (zeroT f false) && fle f slope (zeroT f false)

/-- The insertion of R204, by the build's `PEAK_REPORT`. -/
def reportPeak (i : Nat) (res : T) (s : State) : Except Fault State :=
  match s.build.peakReport with
  | .current => insertTop res (BitVec.ofNat 24 i) s
  | .previous => insertTop s.pres (BitVec.ofNat 24 (i - 1)) s

/-- `PEAK i`, R204. -/
def doPeak (i : Nat) (s : State) : Except Fault State := do
  let f := s.build.flen
  let res := cabs f s.nanDraws { re := s.sre, im := s.sim }
  let slope := fsub f (s.nanDraws + 4) res s.pres
  let t ← if slopeTurned f s.pslope slope then reportPeak i res s else .ok s
  .ok (draw 5 { t with pslope := slope, pres := res })

/-- The acceptance checks of `TD.ONSET`, R191. -/
def tdOnsetCheck (s : State) : Option ErrCode :=
  if s.tdValid = false ∨ s.onsValid = true then some .seq
  else if s.tdIncnt ≠ s.tdN then some .size
  else none

/-- The length of the list of `TD.ONSET`, R191. -/
def tdOnsetLen (s : State) : Nat := s.tdN - 1

/-- Position `p` of the list of `TD.ONSET`, R191. -/
def tdOnsetUop (s : State) (p : Nat) : MicroOp := .ons (s.tdN - 1 - p)

/-- The completion effects of `TD.ONSET`, R194. -/
def tdOnsetDone (s : State) : State := { s with onsValid := true }

/-- The argument checks of R198. -/
def sweepArgsBad (s : State) : Bool := s.tdLo == 0 || !finitePositive s.build.flen s.tdFs

/-- The acceptance checks of `TD.SWEEP`, R195. -/
def tdSweepCheck (s : State) : Option ErrCode :=
  if s.tdValid = false ∨ s.onsValid = false then some .seq
  else if sweepArgsBad s then some .arg
  else none

/-- The length of the list of `TD.SWEEP`, R196. -/
def tdSweepLen (s : State) : Nat := 1 + candidates s * (s.tdN + 2)

/-- Position `p` of the list of `TD.SWEEP`, R197. -/
def tdSweepUop (s : State) (p : Nat) : MicroOp :=
  if p = 0 then .topclr
  else
    let c := (p - 1) / (s.tdN + 2)
    let o := (p - 1) % (s.tdN + 2)
    let i := s.tdLo.toNat + c
    if o = 0 then .cbeg i
    else if o ≤ s.tdN then .cor i (o - 1)
    else .peak i

/-- The completion effects of `TD.SWEEP`, R206. -/
def tdSweepDone (s : State) : State := { s with topValid := true, onsValid := false, tdIncnt := 0 }

/-- The acceptance checks of `TD.DETECT`, R207. -/
def tdDetectCheck (s : State) : Option ErrCode :=
  if s.tdValid = false ∨ s.onsValid = true then some .seq
  else if s.tdIncnt ≠ s.tdN then some .size
  else if sweepArgsBad s then some .arg
  else none

/-- The length of the list of `TD.DETECT`, R207. -/
def tdDetectLen (s : State) : Nat := (s.tdN - 1) + tdSweepLen s

/-- Position `p` of the list of `TD.DETECT`, R207. -/
def tdDetectUop (s : State) (p : Nat) : MicroOp :=
  if p < s.tdN - 1 then .ons (s.tdN - 1 - p) else tdSweepUop s (p - (s.tdN - 1))

/-- The completion effects of `TD.DETECT`, R208. -/
def tdDetectDone (s : State) : State := { s with topValid := true, onsValid := false, tdIncnt := 0 }

/-- `TD.ONSET`, R191: the host step that issues it (R233). -/
def execTdOnset (s : State) : Host.Outcome State Fault Refusal :=
  .next (issue .tdOnset (tdOnsetCheck s) s)

/-- `TD.SWEEP`, R195: the host step that issues it (R233). -/
def execTdSweep (s : State) : Host.Outcome State Fault Refusal :=
  .next (issue .tdSweep (tdSweepCheck s) s)

/-- `TD.DETECT`, R207: the host step that issues it (R233). -/
def execTdDetect (s : State) : Host.Outcome State Fault Refusal :=
  .next (issue .tdDetect (tdDetectCheck s) s)

end Sys2Proof.Machine
end

