-- ==== Sys2Proof/Machine/System.lean ====
section
/-! DEFINITION. The system commands `NOP` and `RESET` (44_system.md, section 3). -/

namespace Sys2Proof.Machine

/-- `NOP`, R240: the host step that issues it (R233). Its list is empty; its only lasting effect is `IP.DONE`. -/
def execNop (s : State) : Host.Outcome State Fault Refusal :=
  .next (issue .nop none s)

/-- `RESET`, R241: performed in the host step itself, busy or idle, and never refused. -/
def execReset (s : State) : Host.Outcome State Fault Refusal :=
  .next (softReset s)

end Sys2Proof.Machine
end

