-- ==== Sys2Proof/Machine/TableBuild.lean ====
section
/-! DEFINITION. The construction commands `TE.INIT` and `TD.INIT` (41_table_build.md). -/

namespace Sys2Proof.Machine

/-- `TWGEN k`, R143. N is that of the latched command (R142). -/
def doTwgen (k : Nat) (s : State) : State :=
  { s with tw := memWrite s.tw k (twid s.build (curArg s) k) }

/-- `BRGEN i`, R144, with `L = log2(N)`. -/
def doBrgen (i : Nat) (s : State) : State :=
  { s with br := memWrite s.br i (bitrev (Nat.log2 (curArg s)) i) }

/-- `WINGEN m`, R145. -/
def doWingen (m : Nat) (s : State) : State :=
  { s with win := memWrite s.win m (hann s.build (curArg s) m) }

/-- `DWGEN m`, R152. ND is that of the latched command. -/
def doDwgen (m : Nat) (s : State) : State :=
  { s with dwin := memWrite s.dwin m (hann s.build (curArg s) m) }

/-- "N is a power of two" of R130 and R141: `N and (N - 1) = 0`, for `N >= 2`. -/
def isPow2 (n : Nat) : Bool := decide (2 ≤ n) && (n &&& (n - 1)) == 0

/-- The acceptance check of `TE.INIT`, R141. -/
def teInitCheck (n : Nat) (s : State) : Option ErrCode :=
  if !isPow2 n || decide (2 ^ s.build.log2nMax < n) then some .cfg else none

/-- The length of the list of `TE.INIT`, R142. -/
def teInitLen (n : Nat) : Nat := 2 * n + 1

/-- Position `p` of the list of `TE.INIT`, R142. -/
def teInitUop (n p : Nat) : MicroOp :=
  if p < n / 2 then .twgen p
  else if p < n / 2 + n then .brgen (p - n / 2)
  else .wingen (p - (n / 2 + n))

/-- The completion effects of `TE.INIT`, R146. -/
def teInitDone (n : Nat) (s : State) : State :=
  { s with
    teN := n, teLog2n := Nat.log2 n, teValid := true
    workValid := false, outValid := false, teIncnt := 0 }

/-- The acceptance check of `TD.INIT`, R150. -/
def tdInitCheck (n : Nat) (s : State) : Option ErrCode :=
  if n < 1 ∨ 2 ^ s.build.log2ndMax < n then some .cfg else none

/-- The length of the list of `TD.INIT`, R151. -/
def tdInitLen (n : Nat) : Nat := n / 2 + 1

/-- Position `p` of the list of `TD.INIT`, R151. -/
def tdInitUop (p : Nat) : MicroOp := .dwgen p

/-- The completion effects of `TD.INIT`, R153. -/
def tdInitDone (n : Nat) (s : State) : State :=
  { s with tdN := n, tdValid := true, onsValid := false, topValid := false, tdIncnt := 0 }

/-- `TE.INIT n`, R141: the host step that issues it (R233). Its list runs in the sequencer (R142, R234). -/
def execTeInit (n : Nat) (s : State) : Host.Outcome State Fault Refusal :=
  .next (issue (.teInit n) (teInitCheck n s) s)

/-- `TD.INIT n`, R150: the host step that issues it (R233). Its list runs in the sequencer (R151, R234). -/
def execTdInit (n : Nat) (s : State) : Host.Outcome State Fault Refusal :=
  .next (issue (.tdInit n) (tdInitCheck n s) s)

end Sys2Proof.Machine
end

