-- ==== Sys2Proof/Machine/Transform.lean ====
section
/-! DEFINITION. The transform commands `TE.WINLD`, `TE.STAGE`, `TE.MAG` and `TE.XFORM` (42_transform.md). -/

namespace Sys2Proof.Machine

/-- `WLD i`, R162. -/
def doWld (i : Nat) (s : State) : Except Fault State := do
  let r ← readElem .br s.br i
  let x ← readElem .inp s.inp r
  let w ← readElem .win s.win (foldIdx r s.teN)
  let v : Cplx := { re := fmul s.build.flen s.nanDraws x w, im := zeroT s.build.flen false }
  .ok (draw 1 { s with work := memWrite s.work i v })

/-- `BFLY s, q`, R166, with the indices of R167. Both results use the values from before the micro-operation. -/
def doBfly (k q : Nat) (s : State) : Except Fault State := do
  let w ← readElem .tw s.tw (bflyTwidx s.teN k q)
  let u ← readElem .work s.work (bflyUpper k q)
  let l ← readElem .work s.work (bflyLower k q)
  let t := cmul s.build.flen s.nanDraws w u
  let up := csub s.build.flen (s.nanDraws + 6) l t
  let lo := cadd s.build.flen (s.nanDraws + 8) l t
  .ok (draw 10 { s with work := memWrite (memWrite s.work (bflyUpper k q) up) (bflyLower k q) lo })

/-- `MAGK k`, R170. -/
def doMagk (k : Nat) (s : State) : Except Fault State := do
  let z ← readElem .work s.work k
  .ok (draw 4 { s with out := memWrite s.out k (cabs s.build.flen s.nanDraws z) })

/-- The acceptance checks of `TE.WINLD`, R161. -/
def teWinldCheck (s : State) : Option ErrCode :=
  if s.teValid = false then some .seq
  else if s.teIncnt ≠ s.teN then some .size
  else none

/-- The length of the list of `TE.WINLD`, R161. -/
def teWinldLen (s : State) : Nat := s.teN

/-- Position `p` of the list of `TE.WINLD`, R161. -/
def teWinldUop (p : Nat) : MicroOp := .wld p

/-- The completion effects of `TE.WINLD`, R164. -/
def teWinldDone (s : State) : State := { s with workValid := true, teIncnt := 0 }

/-- The acceptance checks of `TE.STAGE`, R165. -/
def teStageCheck (k : Nat) (s : State) : Option ErrCode :=
  if s.teValid = false ∨ s.workValid = false then some .seq
  else if s.teLog2n ≤ k then some .arg
  else none

/-- The length of the list of `TE.STAGE`, R165. -/
def teStageLen (s : State) : Nat := s.teN / 2

/-- Position `p` of the list of `TE.STAGE`, R165. -/
def teStageUop (k p : Nat) : MicroOp := .bfly k p

/-- The completion effects of `TE.STAGE`, R165: none. -/
def teStageDone (s : State) : State := s

/-- The acceptance check of `TE.MAG`, R169. -/
def teMagCheck (s : State) : Option ErrCode :=
  if s.teValid = false ∨ s.workValid = false then some .seq else none

/-- The length of the list of `TE.MAG`, R169. -/
def teMagLen (s : State) : Nat := s.teN / 2 + 1

/-- Position `p` of the list of `TE.MAG`, R169. -/
def teMagUop (p : Nat) : MicroOp := .magk p

/-- The completion effects of `TE.MAG`, R169. -/
def teMagDone (s : State) : State := { s with outValid := true }

/-- The acceptance checks of `TE.XFORM`, R173. -/
def teXformCheck (s : State) : Option ErrCode :=
  if s.teValid = false then some .seq
  else if s.teIncnt ≠ s.teN then some .size
  else none

/-- The length of the list of `TE.XFORM`, R174. -/
def teXformLen (s : State) : Nat := s.teN + s.teLog2n * (s.teN / 2) + s.teN / 2 + 1

/-- Position `p` of the list of `TE.XFORM`, R174. -/
def teXformUop (s : State) (p : Nat) : MicroOp :=
  if p < s.teN then .wld p
  else if p < s.teN + s.teLog2n * (s.teN / 2) then
    .bfly ((p - s.teN) / (s.teN / 2)) ((p - s.teN) % (s.teN / 2))
  else .magk (p - s.teN - s.teLog2n * (s.teN / 2))

/-- The completion effects of `TE.XFORM`, R175. -/
def teXformDone (s : State) : State := { s with workValid := true, outValid := true, teIncnt := 0 }

/-- `TE.WINLD`, R161: the host step that issues it (R233). -/
def execTeWinld (s : State) : Host.Outcome State Fault Refusal :=
  .next (issue .teWinld (teWinldCheck s) s)

/-- `TE.STAGE s`, R165: the host step that issues it (R233). -/
def execTeStage (k : Nat) (s : State) : Host.Outcome State Fault Refusal :=
  .next (issue (.teStage k) (teStageCheck k s) s)

/-- `TE.MAG`, R169: the host step that issues it (R233). -/
def execTeMag (s : State) : Host.Outcome State Fault Refusal :=
  .next (issue .teMag (teMagCheck s) s)

/-- `TE.XFORM`, R173: the host step that issues it (R233). -/
def execTeXform (s : State) : Host.Outcome State Fault Refusal :=
  .next (issue .teXform (teXformCheck s) s)

end Sys2Proof.Machine
end

