-- ==== Sys2Proof/Machine/Dispatch.lean ====
section
/-! DEFINITION. `exec`: the host step that issues a decoded command (R233), one arm per command. -/

namespace Sys2Proof.Machine

def exec (i : Instr) (s : State) : Host.Outcome State Fault Refusal :=
  match i with
  | .nop => Sys2Proof.Machine.execNop s
  | .teInit n => Sys2Proof.Machine.execTeInit n s
  | .teWinld => Sys2Proof.Machine.execTeWinld s
  | .teStage k => Sys2Proof.Machine.execTeStage k s
  | .teMag => Sys2Proof.Machine.execTeMag s
  | .teXform => Sys2Proof.Machine.execTeXform s
  | .tdInit n => Sys2Proof.Machine.execTdInit n s
  | .tdOnset => Sys2Proof.Machine.execTdOnset s
  | .tdSweep => Sys2Proof.Machine.execTdSweep s
  | .tdDetect => Sys2Proof.Machine.execTdDetect s
  | .reset => Sys2Proof.Machine.execReset s

end Sys2Proof.Machine
end

