-- ==== Sys2Proof/Machine/Flags.lean ====
section
/-! DEFINITION. Every flag the spec derives and every register view made of flags: `STATUS` (R25), `CAP` (R24), `IP`
(R29), the interrupt output (R270). -/

namespace Sys2Proof.Machine

/-- `STATUS.IN_FULL`, R25. -/
def inFull (s : State) : Bool := s.teValid && s.teIncnt == s.teN

/-- `STATUS.IN_EMPTY`, R25. -/
def inEmpty (s : State) : Bool := s.teIncnt == 0

/-- `STATUS.DV_FULL`, R25. -/
def dvFull (s : State) : Bool := s.tdValid && s.tdIncnt == s.tdN

/-- `STATUS.DV_EMPTY`, R25. -/
def dvEmpty (s : State) : Bool := s.tdIncnt == 0

/-- The register `STATUS`, from bit 31 down (R25). -/
def statusWord (s : State) : BitVec 32 :=
  0#8 ++ s.opc ++ 0#3 ++ BitVec.ofBool s.topValid ++ BitVec.ofBool s.onsValid ++ BitVec.ofBool (dvEmpty s) ++
    BitVec.ofBool (dvFull s) ++ BitVec.ofBool s.tdValid ++ 0#1 ++ BitVec.ofBool s.outValid ++
    BitVec.ofBool s.workValid ++ BitVec.ofBool (inEmpty s) ++ BitVec.ofBool (inFull s) ++
    BitVec.ofBool s.teValid ++ BitVec.ofBool s.unit ++ BitVec.ofBool s.busy

/-- The register `CAP`, from bit 31 down (R24). -/
def capWord (b : Build) : BitVec 32 :=
  0#12 ++ BitVec.ofBool (b.peakReport == .previous) ++ BitVec.ofBool (b.flen == .w64) ++
    BitVec.ofNat 8 b.slots ++ BitVec.ofNat 5 b.log2ndMax ++ BitVec.ofNat 5 b.log2nMax

/-- `IP.ERR`: 1 exactly when `ERR` is not 0 (R29, R271). -/
def ipErr (s : State) : Bool := s.err != 0

/-- The register `IP`, R29: bit 0 `DONE`, bit 1 `ERR`. -/
def ipWord (s : State) : BitVec 2 := BitVec.ofBool (ipErr s) ++ BitVec.ofBool s.ipDone

/-- The interrupt output, R270. -/
def irq (s : State) : Bool := (ipWord s &&& s.ie) != 0

end Sys2Proof.Machine
end

