-- ==== Sys2Proof/Machine/Sequencer.lean ====
section
/-! DEFINITION. The sequencer (44_system.md, section 2): the micro-operation list of the latched command, the sequencer
step (R234) and the completion step (R235). -/

namespace Sys2Proof.Machine

/-- One micro-operation, R98. -/
def perform (u : MicroOp) (s : State) : Except Fault State :=
  match u with
  | .twgen k => .ok (doTwgen k s)
  | .brgen i => .ok (doBrgen i s)
  | .wingen m => .ok (doWingen m s)
  | .dwgen m => .ok (doDwgen m s)
  | .wld i => doWld i s
  | .bfly k q => doBfly k q s
  | .magk k => doMagk k s
  | .ons n => doOns n s
  | .topclr => .ok (doTopclr s)
  | .cbeg i => .ok (doCbeg i s)
  | .cor _ n => doCor n s
  | .peak i => doPeak i s

/-- `len` of a command's list, R238. `RESET` has no list. -/
def listLen (i : Instr) (s : State) : Nat :=
  match i with
  | .nop => 0
  | .teInit n => teInitLen n
  | .teWinld => teWinldLen s
  | .teStage _ => teStageLen s
  | .teMag => teMagLen s
  | .teXform => teXformLen s
  | .tdInit n => tdInitLen n
  | .tdOnset => tdOnsetLen s
  | .tdSweep => tdSweepLen s
  | .tdDetect => tdDetectLen s
  | .reset => 0

/-- The micro-operation at position `p` of a command's list, R234; none for the two commands that have no
micro-operations. -/
def uopAt (i : Instr) (s : State) (p : Nat) : Option MicroOp :=
  match i with
  | .nop => none
  | .teInit n => some (teInitUop n p)
  | .teWinld => some (teWinldUop p)
  | .teStage k => some (teStageUop k p)
  | .teMag => some (teMagUop p)
  | .teXform => some (teXformUop s p)
  | .tdInit _ => some (tdInitUop p)
  | .tdOnset => some (tdOnsetUop s p)
  | .tdSweep => some (tdSweepUop s p)
  | .tdDetect => some (tdDetectUop s p)
  | .reset => none

/-- The completion effects of a command, the table of R235. -/
def doneEffects (i : Instr) (s : State) : State :=
  match i with
  | .nop => s
  | .teInit n => teInitDone n s
  | .teWinld => teWinldDone s
  | .teStage _ => teStageDone s
  | .teMag => teMagDone s
  | .teXform => teXformDone s
  | .tdInit n => tdInitDone n s
  | .tdOnset => tdOnsetDone s
  | .tdSweep => tdSweepDone s
  | .tdDetect => tdDetectDone s
  | .reset => s

/-- The completion step, R235. -/
def complete (i : Instr) (s : State) : State := finish (doneEffects i s)

/-- The sequencer's step on the list of command `i`, R234. -/
def listStep (i : Instr) (s : State) : Except Fault State :=
  if s.seq < listLen i s then
    match uopAt i s s.seq with
    | some u =>
      match perform u s with
      | .ok t => .ok { t with seq := t.seq + 1 }
      | .error e => .error e
    | none => .error (.latch s.cur)
  else .ok (complete i s)

/-- The sequencer's step while `BUSY = 1`, R234. A latch that holds no command with a list is in no state a run
reaches, and stops (log 9). -/
def sequencerStep (s : State) : Except Fault State :=
  match decode s.cur with
  | .ok .reset => .error (.latch s.cur)
  | .ok i => listStep i s
  | .error _ => .error (.latch s.cur)

end Sys2Proof.Machine
end

