-- ==== Sys2Proof/Machine/Bus.lean ====
section
/-! DEFINITION. The host port (20_memory.md): reads and writes of registers (R67, R68) and element memories (R64, R66),
the push ports (R73, R74), the issue of a command word (R233); and the turns of the three agents (R12). -/

namespace Sys2Proof.Machine

/-- Bits 31 to 0 of a bus word. -/
def lowWord (v : Word) : BitVec 32 := v.extractLsb' 0 32

/-- The value a host read of a register returns, zero-extended to a bus word (R67). Write-only registers read 0. -/
def regValue (s : State) : Reg → Word
  | .cap => (capWord s.build).zeroExtend 64
  | .status => (statusWord s).zeroExtend 64
  | .cmd => 0
  | .err => s.err.zeroExtend 64
  | .ecode => s.ecode.zeroExtend 64
  | .einfo => s.einfo.zeroExtend 64
  | .ie => s.ie.zeroExtend 64
  | .ip => (ipWord s).zeroExtend 64
  | .seq => (BitVec.ofNat 32 s.seq).zeroExtend 64
  | .teN => (BitVec.ofNat 24 s.teN).zeroExtend 64
  | .teLog2n => (BitVec.ofNat 5 s.teLog2n).zeroExtend 64
  | .teIncnt => (BitVec.ofNat 24 s.teIncnt).zeroExtend 64
  | .tePush => 0
  | .tdN => (BitVec.ofNat 24 s.tdN).zeroExtend 64
  | .tdIncnt => (BitVec.ofNat 24 s.tdIncnt).zeroExtend 64
  | .tdPush => 0
  | .tdFs => s.tdFs
  | .tdFrame => s.tdFrame.zeroExtend 64
  | .tdLo => s.tdLo.zeroExtend 64
  | .tdHi => s.tdHi.zeroExtend 64
  | .tdCtrl => (BitVec.ofBool s.tdWin).zeroExtend 64

/-- One word of a complex element: the real part at the even index, the imaginary part at the odd one (R62). -/
def cplxWord (z : Cplx) (idx : Nat) : Word := if idx % 2 = 0 then z.re else z.im

/-- `MemRead(space, idx)`: the word of the layout of R62. -/
def memWord (s : State) (name : MemName) (idx : Nat) : Except Fault Word :=
  match name with
  | .tw => do
    let z ← readElem .tw s.tw (idx / 2)
    .ok (cplxWord z idx)
  | .br => do
    let r ← readElem .br s.br idx
    .ok (BitVec.ofNat 64 r)
  | .win => readElem .win s.win idx
  | .inp => readElem .inp s.inp idx
  | .work => do
    let z ← readElem .work s.work (idx / 2)
    .ok (cplxWord z idx)
  | .out => readElem .out s.out idx
  | .dwin => readElem .dwin s.dwin idx
  | .dv => readElem .dv s.dv idx
  | .top => do
    let e ← readElem .top s.top (idx / 2)
    .ok (if idx % 2 = 0 then e.str else e.cand.zeroExtend 64)

/-- `EXT(space)` of R65; 0 for an unmapped space. -/
def extent (s : State) (space : Nat) : Nat :=
  match memOfSpace space with
  | some name => extentOf s name
  | none => 0

/-- The answer of a read that is performed. -/
def answer (v : Word) (s : State) : State := { s with rsp := .read v }

/-- A read that is refused: the error is recorded and the read returns 0 (R60, R262). -/
def refuseRead (e : ErrCode) (a : Addr) (s : State) : State := answer 0 (raise e a s)

/-- `HostRead(A)` outside space 0, R64. -/
def hostReadMem (a : Addr) (s : State) : Except Fault State :=
  if s.busy then .ok (refuseRead .busy a s)
  else
    match memOfSpace (addrSpace a) with
    | none => .ok (refuseRead .acc a s)
    | some name =>
      if extentOf s name ≤ addrIdx a then .ok (refuseRead .acc a s)
      else
        match memWord s name (addrIdx a) with
        | .ok v => .ok (answer v s)
        | .error e => .error e

/-- `HostRead(A)` in space 0, R67. -/
def hostReadReg (a : Addr) (s : State) : State :=
  match regAt (addrIdx a) with
  | none => refuseRead .acc a s
  | some r => answer (regValue s r) s

/-- `HostRead(A)`, R60. -/
def hostRead (a : Addr) (s : State) : Except Fault State :=
  if addrSpace a = 0 then .ok (hostReadReg a s) else hostReadMem a s

/-- The issue of a command word, R233: the host step of a write to `CMD`. A reserved word is refused with `E_BUSY`
while busy and `E_OPC` while idle (R94). -/
def issueWord (c : CmdWord) (s : State) : Host.Outcome State Fault Refusal :=
  match decode c with
  | .ok i => exec i s
  | .error _ => .next (if s.busy then raise .busy c s else raise .opc c s)

/-- A write to `TE_PUSH` while idle, R73. -/
def tePush (a : Addr) (v : Word) (s : State) : State :=
  if s.teValid = false ∨ s.teIncnt = s.teN then raise .ovf a s
  else { s with inp := memWrite s.inp s.teIncnt (truncT s.build.flen v), teIncnt := s.teIncnt + 1 }

/-- A write to `TD_PUSH` while idle, R74. -/
def tdPush (a : Addr) (v : Word) (s : State) : State :=
  if s.tdValid = false ∨ s.tdIncnt = s.tdN then raise .ovf a s
  else { s with dv := memWrite s.dv s.tdIncnt (truncT s.build.flen v), tdIncnt := s.tdIncnt + 1 }

/-- A write to a register that is neither read only nor locked (R68). -/
def writeReg (r : Reg) (a : Addr) (v : Word) (s : State) : Host.Outcome State Fault Refusal :=
  match r with
  | .cmd => issueWord (lowWord v) s
  | .err => .next (clearErrors (lowWord v) s)
  | .ie => .next { s with ie := v.extractLsb' 0 2 }
  | .ip => .next (if v.getLsbD 0 then { s with ipDone := false } else s)
  | .tePush => .next (tePush a v s)
  | .tdPush => .next (tdPush a v s)
  | .tdFs => .next { s with tdFs := truncT s.build.flen v }
  | .tdFrame => .next { s with tdFrame := lowWord v }
  | .tdLo => .next { s with tdLo := v.extractLsb' 0 24 }
  | .tdHi => .next { s with tdHi := v.extractLsb' 0 24 }
  | .tdCtrl => .next { s with tdWin := v.getLsbD 0 }
  | .cap | .status | .ecode | .einfo | .seq | .teN | .teLog2n | .teIncnt | .tdN | .tdIncnt =>
    .next (raise .acc a s)

/-- `HostWrite(A, v)`, R66 and R68: an unknown register, a read-only register or any address outside space 0 first,
then the lock-out while busy, then the register's own rule (R264). -/
def hostWrite (a : Addr) (v : Word) (s : State) : Host.Outcome State Fault Refusal :=
  if addrSpace a ≠ 0 then .next (raise .acc a s)
  else
    match regAt (addrIdx a) with
    | none => .next (raise .acc a s)
    | some r =>
      if r.readOnly then .next (raise .acc a s)
      else if r.lockedWhileBusy && s.busy then .next (raise .busy a s)
      else writeReg r a v s

/-- The turn of the sequencer: a step while busy, none while idle (R12). -/
def sequencerTurn (s : State) : Host.Outcome State Fault Refusal :=
  if s.busy then ofExcept (sequencerStep s) else .next s

/-- One turn of an agent (R12). While the reset input is asserted no transaction is accepted and the sequencer does
not step (R300, V9, log 10). -/
def agentTurn (e : Event) (s : State) : Host.Outcome State Fault Refusal :=
  match e with
  | .resetAssert => .next { hardReset s with rst := true }
  | .resetRelease => .next (if s.rst then { hardReset s with rst := false } else s)
  | .sequencer => if s.rst then .next s else sequencerTurn s
  | .hostRead a => if s.rst then .next s else ofExcept (hostRead a s)
  | .hostWrite a v => if s.rst then .next s else hostWrite a v { s with rsp := .written }

/-- The state in which a turn begins: its event is taken from the list, and the port answers nothing yet. -/
def takeTurn (rest : List Event) (s : State) : State := { s with pending := rest, rsp := .none }

/-- One step of the whole machine: the next turn of the list; with no turn listed, the sequencer goes on by itself
(R237, log 12), and an idle engine changes nothing (R280). -/
def turn (s : State) : Host.Outcome State Fault Refusal :=
  match s.pending with
  | [] => agentTurn .sequencer (takeTurn [] s)
  | e :: rest => agentTurn e (takeTurn rest s)

end Sys2Proof.Machine
end

