-- ==== Sys2Proof/Machine/Step.lean ====
section
/-! DEFINITION. One step of the machine, and where a command word is placed to be the next one. -/

namespace Sys2Proof.Machine

/-- One step: one turn of one agent (R12, log 1). -/
def step (s : State) : Host.Outcome State Fault Refusal := turn s

/-- `s` with the command word `w` as the next thing the host does: a write of `w` to `CMD` (R26, R233) at the head of
the turns, with the reset input released so that the port accepts it (R300). A command word has 32 bits (R90), so bits
above `nbits` are 0. -/
def State.withFetchWord (s : State) (nbits w : Nat) : State :=
  { s with
    pending := .hostWrite 0x00000002 (BitVec.ofNat 64 (w % 2 ^ nbits % 2 ^ 32)) :: s.pending
    rst := false }

end Sys2Proof.Machine
end

