-- ==== Sys2Proof/Safety.lean ====
section
/-! DEFINITION. The terms statements are made in: runs of the machine, the invariant of every reachable state, what the
host cannot disturb, and the exact meanings the floating-point and ranking statements compare with. -/

namespace Sys2Proof.Machine

/-! ## Runs -/

/-- `k` steps, stopping at the first stop. -/
def run : Nat → State → Host.Outcome State Fault Refusal
  | 0, s => .next s
  | k + 1, s =>
    match step s with
    | .next t => run k t
    | .fault e => .fault e
    | .refused r => .refused r

/-- A command issued in `s` and waited for: the issuing host step, then the sequencer steps of its list and the
completion step (R230, R235). -/
def runCommand (i : Instr) (s : State) : Host.Outcome State Fault Refusal :=
  match exec i s with
  | .next t => run (listLen i s + 1) t
  | .fault e => .fault e
  | .refused r => .refused r

/-- Commands issued one after another, each waited for. -/
def runCommands : List Instr → State → Host.Outcome State Fault Refusal
  | [], s => .next s
  | i :: is, s =>
    match runCommand i s with
    | .next t => runCommands is t
    | .fault e => .fault e
    | .refused r => .refused r

/-- Idle, out of reset, and nothing else scheduled: where a command is issued and then waited for. -/
def ready (s : State) : Bool := !s.busy && !s.rst && s.pending == []

/-- `s` with a command word accepted, R233: what acceptance changes and nothing else. -/
def busyWith (c : CmdWord) (op : BitVec 8) (td : Bool) (s : State) : State :=
  { s with cur := c, seq := 0, busy := true, opc := op, unit := td }

/-- `s` after a command `c` has been accepted and has completed, but for the effects of its list and of its own
completion rule (R235); the port answers nothing in the last step. -/
def idleAfter (c : CmdWord) (s : State) : State :=
  { s with cur := c, seq := 0, busy := false, opc := 0, unit := false, ipDone := true, rsp := .none }

/-! ## The invariant -/

/-- The acceptance check of each command, R265. -/
def acceptCheck (i : Instr) (s : State) : Option ErrCode :=
  match i with
  | .nop => none
  | .teInit n => teInitCheck n s
  | .teWinld => teWinldCheck s
  | .teStage k => teStageCheck k s
  | .teMag => teMagCheck s
  | .teXform => teXformCheck s
  | .tdInit n => tdInitCheck n s
  | .tdOnset => tdOnsetCheck s
  | .tdSweep => tdSweepCheck s
  | .tdDetect => tdDetectCheck s
  | .reset => none

/-- Has element `i` been written? -/
def written {α : Type} (m : Mem α) (i : Nat) : Bool := (memRead m i).isSome

/-- Is entry `i` of `BR` written and below `n`? -/
def brBelow (s : State) (n i : Nat) : Bool :=
  match memRead s.br i with
  | some r => decide (r < n)
  | none => false

/-- What a micro-operation that has been performed has written. -/
def hasWritten (s : State) (u : MicroOp) : Bool :=
  match u with
  | .twgen k => written s.tw k
  | .brgen i => brBelow s (curArg s) i
  | .wingen m => written s.win m
  | .dwgen m => written s.dwin m
  | .wld i => written s.work i
  | .magk k => written s.out k
  | .topclr => (List.range s.build.slots).all (fun r => written s.top r)
  | .bfly _ _ | .ons _ | .cbeg _ | .cor _ _ | .peak _ => true

/-- The positions of the running command's list that have been performed have written what they write. -/
def progressOk (i : Instr) (s : State) : Bool :=
  (List.range s.seq).all fun p =>
    match uopAt i s p with
    | some u => hasWritten s u
    | none => true

/-- What holds of the latch and the running list while `BUSY = 1` (R42, R233, R234). -/
def runningOk (s : State) : Bool :=
  match decode s.cur with
  | .ok i =>
    i != .reset && s.opc == i.op && s.unit == isTdOpcode i.op && decide (s.seq ≤ listLen i s) &&
      acceptCheck i s == none && progressOk i s
  | .error _ => false

/-- The invariant of the reachable states: sizes and flags fit together (R25, R31 to R34, R43), the error record is in
step with the flags (R27, R28, R266), the memories are in canonical form, every element the host can read or a
command that may be accepted reads has been written (R45), and the running list is where its latch says. -/
structure Inv (s : State) : Prop where
  build : s.build.wf = true
  idle : s.busy = false → s.seq = 0 ∧ s.unit = false ∧ s.opc = 0
  teOff : s.teValid = false → s.teN = 0 ∧ s.teLog2n = 0 ∧ s.workValid = false ∧ s.outValid = false
  teOn : s.teValid = true → s.teN = 2 ^ s.teLog2n ∧ 1 ≤ s.teLog2n ∧ s.teLog2n ≤ s.build.log2nMax
  teCursor : s.teIncnt ≤ s.teN
  tdOff : s.tdValid = false → s.tdN = 0 ∧ s.onsValid = false ∧ s.topValid = false
  tdOn : s.tdValid = true → 1 ≤ s.tdN ∧ s.tdN ≤ 2 ^ s.build.log2ndMax
  tdCursor : s.tdIncnt ≤ s.tdN
  onsFull : s.onsValid = true → s.tdIncnt = s.tdN
  errBits : s.err &&& ~~~0x000001FE#32 = 0
  record : s.ecode = 0 ↔ s.err = 0
  info : s.ecode = 0 → s.einfo = 0
  wfTw : Mem.wf s.tw = true
  wfBr : Mem.wf s.br = true
  wfWin : Mem.wf s.win = true
  wfInp : Mem.wf s.inp = true
  wfWork : Mem.wf s.work = true
  wfOut : Mem.wf s.out = true
  wfDwin : Mem.wf s.dwin = true
  wfDv : Mem.wf s.dv = true
  wfTop : Mem.wf s.top = true
  haveTw : s.teValid = true → ∀ k < s.teN / 2, written s.tw k = true
  haveBr : s.teValid = true → ∀ i < s.teN, written s.br i = true
  haveWin : s.teValid = true → ∀ m < s.teN / 2 + 1, written s.win m = true
  boundBr : s.teValid = true → (s.busy && s.opc == 0x01) = false → ∀ i < s.teN, brBelow s s.teN i = true
  haveInp : ∀ i < s.teIncnt, written s.inp i = true
  haveWork : s.workValid = true → ∀ i < s.teN, written s.work i = true
  haveOut : s.outValid = true → ∀ k < s.teN / 2 + 1, written s.out k = true
  haveDwin : s.tdValid = true → ∀ m < s.tdN / 2 + 1, written s.dwin m = true
  haveDv : ∀ n < s.tdIncnt, written s.dv n = true
  haveTop : s.topValid = true → ∀ r < s.build.slots, written s.top r = true
  topcnt : s.topcnt ≤ s.build.slots
  ranked : ∀ r < s.topcnt, written s.top r = true
  running : s.busy = true → runningOk s = true

/-! ## Widths -/

/-- A datum has no bits above `FLEN` (R10, R23). -/
def fits (f : Flen) (w : T) : Bool := truncT f w == w

/-- A complex element has none either. -/
def fitsCplx (f : Flen) (z : Cplx) : Bool := fits f z.re && fits f z.im

/-- Every `T` register, hidden value and element fits the build's `FLEN` (R10, R23, R39, R40). -/
def narrow (s : State) : Bool :=
  fits s.build.flen s.tdFs && fits s.build.flen s.b && fits s.build.flen s.sre && fits s.build.flen s.sim &&
    fits s.build.flen s.pres && fits s.build.flen s.pslope &&
    s.tw.all (fun c => fitsCplx s.build.flen c.2) && s.win.all (fun c => fits s.build.flen c.2) &&
    s.inp.all (fun c => fits s.build.flen c.2) && s.work.all (fun c => fitsCplx s.build.flen c.2) &&
    s.out.all (fun c => fits s.build.flen c.2) && s.dwin.all (fun c => fits s.build.flen c.2) &&
    s.dv.all (fun c => fits s.build.flen c.2) && s.top.all (fun c => fits s.build.flen c.2.str)

/-! ## What the host cannot disturb -/

/-- A state without the registers that R236 leaves to the host while a command runs (`ERR`, `ECODE`, `EINFO`, `IE`,
`IP`), and without the model's port and schedule. -/
def engineOf (s : State) : State :=
  { s with err := 0, ecode := 0, einfo := 0, ie := 0, ipDone := false, pending := [], rsp := .none }

/-- A turn that is no reset: the sequencer, a host read, or a host write other than the issue of `RESET` (R236). -/
def noReset (e : Event) : Bool :=
  match e with
  | .sequencer => true
  | .hostRead _ => true
  | .hostWrite a v => !(a == regCmd && decide (decode (lowWord v) = .ok .reset))
  | .resetAssert => false
  | .resetRelease => false
where
  /-- the address of `CMD` -/
  regCmd : Addr := 0x00000002

/-! ## Numbers -/

/-- The rational number `(-1)^neg * m * 2^e`. -/
def ratOf (neg : Bool) (m : Nat) (e : Int) : Rat := (if neg then -1 else 1) * (m : Rat) * (2 : Rat) ^ e

/-- The number a finite pattern denotes. -/
def finiteValue (f : Flen) (w : T) : Option Rat :=
  match unpack f w with
  | .fin neg m e => some (ratOf neg m e)
  | _ => none

/-- The smallest magnitude that rounds to an infinity: half a unit above the largest finite number. -/
def overflowAt (f : Flen) : Rat :=
  ((2 : Rat) ^ (fracBits f + 1) - 1 / 2) * (2 : Rat) ^ (expMin f + (2 ^ expBits f - 3 : Nat))

/-- `t` is the non-zero rational `x` rounded to the nearest `T`, ties to even (R111): an infinity of the sign of `x`
from `overflowAt` on, else a finite number of the sign of `x` that no finite number beats, with an even last bit
where another one is as near. -/
def IsRounded (f : Flen) (x : Rat) (t : T) : Prop :=
  fits f t = true ∧
  if overflowAt f ≤ |x| then unpack f t = .inf (decide (x < 0))
  else ∃ m e, unpack f t = .fin (decide (x < 0)) m e ∧
    ∀ u y, fits f u = true → finiteValue f u = some y →
      |x - ratOf (decide (x < 0)) m e| ≤ |x - y| ∧
      (|x - ratOf (decide (x < 0)) m e| = |x - y| → y ≠ ratOf (decide (x < 0)) m e → t.toNat % 2 = 0)

/-- `t` is the square root of the positive rational `x` rounded to the nearest `T`, ties to even, said without
irrational numbers: `sqrt x` lies on `t`'s side of the middle between `t` and any other number. -/
def IsRoundedSqrt (f : Flen) (x : Rat) (t : T) : Prop :=
  fits f t = true ∧ ∃ z, finiteValue f t = some z ∧ 0 < z ∧
    ∀ u y, fits f u = true → finiteValue f u = some y → 0 ≤ y →
      (z < y → x ≤ ((z + y) / 2) ^ 2 ∧ (x = ((z + y) / 2) ^ 2 → t.toNat % 2 = 0)) ∧
      (y < z → ((z + y) / 2) ^ 2 ≤ x ∧ (x = ((z + y) / 2) ^ 2 → t.toNat % 2 = 0))

/-- A quiet NaN: a NaN whose first fraction bit is 1 (log 14). -/
def isQuiet (f : Flen) (w : T) : Bool := isNaN f w && w.getLsbD (fracBits f - 1)

/-- Finite with absolute value at most 1, by the patterns (R124). -/
def unitBounded (f : Flen) (w : T) : Bool :=
  decide (w.toNat % 2 ^ (flenBits f - 1) ≤ (cvt f 1).toNat)

/-! ## The sweep as a function of its inputs -/

/-- The ranked collection of R205 on lists, strongest first. -/
def rankInsert (f : Flen) (slots : Nat) (e : TopEntry) (l : List TopEntry) : List TopEntry :=
  if l.length = slots then
    if fgt f e.str ((l[slots - 1]?).getD e).str then place l.dropLast else l
  else place l
where
  /-- `e` after the entries it is not stronger than, by their number -/
  place (k : List TopEntry) : List TopEntry :=
    k.take (k.countP fun x => !fgt f e.str x.str) ++ e :: k.drop (k.countP fun x => !fgt f e.str x.str)

/-- Descending strength: no entry is stronger than one before it (R205). -/
def Descending (f : Flen) (l : List TopEntry) : Prop := l.Pairwise fun x y => fgt f y.str x.str = false

/-- The first `k` entries of `TOP` as a list. -/
def topList (s : State) (k : Nat) : List (Option TopEntry) := (List.range k).map (memRead s.top)

/-- The term `a` of R203 for series index `n`; `d` is the first draw of `COR i, n`. -/
def seriesTerm (s : State) (d n : Nat) : T :=
  if s.tdWin then fmul s.build.flen d ((memRead s.dv n).getD 0) ((memRead s.dwin (foldIdx n s.tdN)).getD 0)
  else (memRead s.dv n).getD 0

/-- The running sum after the terms `n < k` (R203), for the ratio `b`, from draw `d`. -/
def correlation (s : State) (b : T) (d : Nat) : Nat → Cplx
  | 0 => { re := zeroT s.build.flen false, im := zeroT s.build.flen false }
  | k + 1 =>
    let z := correlation s b d k
    let a := seriesTerm s (d + 5 * k) k
    let r := rot s.build b k s.tdFs
    { re := fadd s.build.flen (d + 5 * k + 2) z.re (fmul s.build.flen (d + 5 * k + 1) a r.re)
      im := fadd s.build.flen (d + 5 * k + 4) z.im (fmul s.build.flen (d + 5 * k + 3) a r.im) }

/-- The ratio `B` of candidate `i`, R202; its division takes draw `d`. -/
def ratio (s : State) (d i : Nat) : T :=
  fdiv s.build.flen d (cvt s.build.flen i) (cvt s.build.flen s.tdLo.toNat)

/-- The strength of candidate `i` (R202 to R204), from draw `d`. -/
def strength (s : State) (d i : Nat) : T :=
  cabs s.build.flen (d + 1 + 5 * s.tdN) (correlation s (ratio s d i) (d + 1) s.tdN)

/-- What the sweep carries from one candidate to the next (R201): the previous result and slope, and the ranked
collection. -/
structure Tracker where
  /-- `PRES` -/
  pres : T
  /-- `PSLOPE` -/
  pslope : T
  /-- the filled entries of `TOP` -/
  ranked : List TopEntry
deriving DecidableEq, Repr

/-- One candidate of the sweep (R204), from draw `d`. -/
def trackStep (s : State) (d i : Nat) (t : Tracker) : Tracker :=
  let f := s.build.flen
  let res := strength s d i
  let slope := fsub f (d + 1 + 5 * s.tdN + 4) res t.pres
  { pres := res
    pslope := slope
    ranked :=
      if slopeTurned f t.pslope slope then
        match s.build.peakReport with
        | .current => rankInsert f s.build.slots { str := res, cand := BitVec.ofNat 24 i } t.ranked
        | .previous => rankInsert f s.build.slots { str := t.pres, cand := BitVec.ofNat 24 (i - 1) } t.ranked
      else t.ranked }

/-- The sweep after its first `c` candidates, started from draw `d` (R196, R200): each candidate takes
`5 * ND + 6` draws. -/
def sweepTracker (s : State) (d : Nat) : Nat → Tracker
  | 0 => { pres := zeroT s.build.flen false, pslope := zeroT s.build.flen false, ranked := [] }
  | c + 1 => trackStep s (d + c * (5 * s.tdN + 6)) (s.tdLo.toNat + c) (sweepTracker s d c)

end Sys2Proof.Machine
end

