-- ==== Sys2Proof/Certificates/Slice0/Obligations.lean ====
section
/-! DEFINITION. The statements for the provers, from the numbered rules of spec/. The witness of each statement's
hypotheses is in Tests/Slice0.lean. Throughout, `pending`, `rst` and `rsp` are the model's own view of the agents and
the port (log 1, log 10, log 11), and the draw numbers `nanDraws + ...` are the model's numbering of the free NaN values
(log 3): every statement holds for every value of these fields that its hypotheses allow. -/

section

open Sys2Proof Sys2Proof.Machine

/-! ## Encoding (30_encoding.md) -/

/-- R92, R93, R96: the decoder reads every well-formed command back from the word it assembles to. -/
def Obligations.DecodeOfEncodeIsTheCommand : Prop :=
  ∀ i : Instr, i.wf = true → decode (encode i) = .ok i

/-- R92, R93: a word that decodes is the word its command assembles to, so no bit of a word is dropped. -/
def Obligations.EncodeOfDecodeIsTheWord : Prop :=
  ∀ (c : CmdWord) (i : Instr), decode c = .ok i → i.wf = true ∧ encode i = c

/-- R93, the pseudocode of `decode`, with `op` and `arg` as quotient and remainder of the word by 2^24. -/
def Obligations.DecoderFollowsTheOpcodeMap : Prop :=
  ∀ c : CmdWord,
    (decode c = .ok .nop ↔ c.toNat = 0) ∧
    (∀ n, decode c = .ok (.teInit n) ↔ c.toNat / 2 ^ 24 = 0x01 ∧ n = c.toNat % 2 ^ 24) ∧
    (decode c = .ok .teWinld ↔ c.toNat / 2 ^ 24 = 0x02 ∧ c.toNat % 2 ^ 24 = 0) ∧
    (∀ k, decode c = .ok (.teStage k) ↔ c.toNat / 2 ^ 24 = 0x03 ∧ k = c.toNat % 2 ^ 24) ∧
    (decode c = .ok .teMag ↔ c.toNat / 2 ^ 24 = 0x04 ∧ c.toNat % 2 ^ 24 = 0) ∧
    (decode c = .ok .teXform ↔ c.toNat / 2 ^ 24 = 0x05 ∧ c.toNat % 2 ^ 24 = 0) ∧
    (∀ n, decode c = .ok (.tdInit n) ↔ c.toNat / 2 ^ 24 = 0x11 ∧ n = c.toNat % 2 ^ 24) ∧
    (decode c = .ok .tdOnset ↔ c.toNat / 2 ^ 24 = 0x12 ∧ c.toNat % 2 ^ 24 = 0) ∧
    (decode c = .ok .tdSweep ↔ c.toNat / 2 ^ 24 = 0x13 ∧ c.toNat % 2 ^ 24 = 0) ∧
    (decode c = .ok .tdDetect ↔ c.toNat / 2 ^ 24 = 0x14 ∧ c.toNat % 2 ^ 24 = 0) ∧
    (decode c = .ok .reset ↔ c.toNat / 2 ^ 24 = 0x7F ∧ c.toNat % 2 ^ 24 = 0) ∧
    ((∃ e, decode c = .error e) ↔
      c.toNat / 2 ^ 24 ∉ [0x00, 0x01, 0x02, 0x03, 0x04, 0x05, 0x11, 0x12, 0x13, 0x14, 0x7F] ∨
      (c.toNat / 2 ^ 24 ∈ [0x00, 0x02, 0x04, 0x05, 0x12, 0x13, 0x14, 0x7F] ∧ c.toNat % 2 ^ 24 ≠ 0))

/-- Words written out in R92 and R96, one for each family. -/
def Obligations.SampleWordsDecode : Prop :=
  decode 0x00000000 = .ok .nop ∧ decode 0x01000008 = .ok (.teInit 8) ∧ decode 0x03000002 = .ok (.teStage 2) ∧
  decode 0x05000000 = .ok .teXform ∧ decode 0x11000010 = .ok (.tdInit 16) ∧ decode 0x14000000 = .ok .tdDetect ∧
  decode 0x7F000000 = .ok .reset

/-! ## A step runs the issued command (R26, R233) -/

/-- When the next turn is a host write of a command word to `CMD`, the step is `exec` of the decoded command in the
state with that turn taken and the write answered. -/
def Obligations.StepRunsTheIssuedCommand : Prop :=
  ∀ (s : State) (v : Word) (rest : List Event) (i : Instr),
    s.rst = false → s.pending = .hostWrite 0x00000002 v :: rest → decode (lowWord v) = .ok i →
    step s = exec i { s with pending := rest, rsp := .written }

/-- R94, R233, R261, R264: a reserved word written to `CMD` is refused with `E_OPC` while idle and `E_BUSY` while busy,
with the word as the recorded value. -/
def Obligations.ReservedWordIsRefused : Prop :=
  ∀ (s : State) (v : Word) (rest : List Event) (e : DecodeError),
    s.rst = false → s.pending = .hostWrite 0x00000002 v :: rest → decode (lowWord v) = .error e →
    (s.busy = false → step s = .next { raise .opc (lowWord v) s with pending := rest, rsp := .written }) ∧
    (s.busy = true → step s = .next { raise .busy (lowWord v) s with pending := rest, rsp := .written })

/-! ## Acceptance and refusal (44_system.md, 60_exceptions.md) -/

/-- R262: `raise` sets the one flag, records the first error, and changes nothing else; `IP.ERR` reads 1 from then on, and
a refused read returns 0. -/
def Obligations.RaiseSetsOneFlagAndTheFirstRecord : Prop :=
  ∀ (e : ErrCode) (x : BitVec 32) (s : State),
    (∀ j, j < 32 → (raise e x s).err.getLsbD j = (s.err.getLsbD j || decide (j = e.code))) ∧
    (s.ecode = 0 → (raise e x s).ecode.toNat = e.code ∧ (raise e x s).einfo = x) ∧
    (s.ecode ≠ 0 → (raise e x s).ecode = s.ecode ∧ (raise e x s).einfo = s.einfo) ∧
    ipErr (raise e x s) = true ∧ refuseRead e x s = { raise e x s with rsp := .read 0 } ∧
    raise e x s = { s with err := (raise e x s).err, ecode := (raise e x s).ecode, einfo := (raise e x s).einfo }

/-- R232, R233: while a command runs, every command but `RESET` is refused with `E_BUSY` and its own word. -/
def Obligations.BusyEngineRefusesCommands : Prop :=
  ∀ (i : Instr) (s : State), s.busy = true → i ≠ .reset →
    exec i s = .next (raise .busy (encode i) s)

/-- R265: the acceptance checks of every command, in order, for an idle engine; what each answers is the refusal with
the first check that fails, or the acceptance of R233; `RESET` has none. The first two clauses say which patterns pass
the test of R198 on `TD_FS`: those that are no NaN, no infinity, no zero and not negative. -/
def Obligations.AcceptanceChecksInOrder : Prop :=
  (∀ x : T, x.toNat < 2 ^ 32 → (finitePositive .w32 x = true ↔ 0 < x.toNat ∧ x.toNat < 0x7F800000)) ∧
  (∀ x : T, finitePositive .w64 x = true ↔ 0 < x.toNat ∧ x.toNat < 0x7FF0000000000000) ∧
  ∀ s : State, s.busy = false →
    (∀ n, n < 2 ^ 24 → n < 2 ∨ (∀ k, n ≠ 2 ^ k) ∨ 2 ^ s.build.log2nMax < n →
      exec (.teInit n) s = .next (raise .cfg (0x01000000 + BitVec.ofNat 32 n) s)) ∧
    (∀ k, 1 ≤ k → k < 24 → k ≤ s.build.log2nMax →
      exec (.teInit (2 ^ k)) s = .next (busyWith (0x01000000 + BitVec.ofNat 32 (2 ^ k)) 0x01 false s)) ∧
    exec .teWinld s = .next
      (if s.teValid = false then raise .seq 0x02000000 s
       else if s.teIncnt ≠ s.teN then raise .size 0x02000000 s
       else busyWith 0x02000000 0x02 false s) ∧
    (∀ k, k < 2 ^ 24 → exec (.teStage k) s = .next
      (if s.teValid = false ∨ s.workValid = false then raise .seq (0x03000000 + BitVec.ofNat 32 k) s
       else if s.teLog2n ≤ k then raise .arg (0x03000000 + BitVec.ofNat 32 k) s
       else busyWith (0x03000000 + BitVec.ofNat 32 k) 0x03 false s)) ∧
    exec .teMag s = .next
      (if s.teValid = false ∨ s.workValid = false then raise .seq 0x04000000 s
       else busyWith 0x04000000 0x04 false s) ∧
    exec .teXform s = .next
      (if s.teValid = false then raise .seq 0x05000000 s
       else if s.teIncnt ≠ s.teN then raise .size 0x05000000 s
       else busyWith 0x05000000 0x05 false s) ∧
    (∀ n, n < 2 ^ 24 → exec (.tdInit n) s = .next
      (if n < 1 ∨ 2 ^ s.build.log2ndMax < n then raise .cfg (0x11000000 + BitVec.ofNat 32 n) s
       else busyWith (0x11000000 + BitVec.ofNat 32 n) 0x11 true s)) ∧
    exec .tdOnset s = .next
      (if s.tdValid = false ∨ s.onsValid = true then raise .seq 0x12000000 s
       else if s.tdIncnt ≠ s.tdN then raise .size 0x12000000 s
       else busyWith 0x12000000 0x12 true s) ∧
    exec .tdSweep s = .next
      (if s.tdValid = false ∨ s.onsValid = false then raise .seq 0x13000000 s
       else if s.tdLo = 0 ∨ finitePositive s.build.flen s.tdFs = false then raise .arg 0x13000000 s
       else busyWith 0x13000000 0x13 true s) ∧
    exec .tdDetect s = .next
      (if s.tdValid = false ∨ s.onsValid = true then raise .seq 0x14000000 s
       else if s.tdIncnt ≠ s.tdN then raise .size 0x14000000 s
       else if s.tdLo = 0 ∨ finitePositive s.build.flen s.tdFs = false then raise .arg 0x14000000 s
       else busyWith 0x14000000 0x14 true s) ∧
    exec .nop s = .next (busyWith 0x00000000 0x00 false s) ∧
    exec .reset s = .next (softReset s)

/-! ## What each command does, from its issue to its completion -/

/-- R240: `NOP` is the all-zero word; it is refused with `E_BUSY` when busy and else accepted; it is busy with
`OPC = 0x00` for one sequencer step, and its only lasting effect is `IP.DONE`. That an engine left alone takes that
step by itself is the model's choice (log 12). -/
def Obligations.NopOnlySetsDone : Prop :=
  encode .nop = 0 ∧ decode 0 = .ok .nop ∧
  ∀ s : State,
    (s.busy = true → exec .nop s = .next (raise .busy 0x00000000 s)) ∧
    (ready s = true →
      exec .nop s = .next (busyWith 0x00000000 0x00 false s) ∧
      run 1 (busyWith 0x00000000 0x00 false s) = .next (idleAfter 0x00000000 s))

/-- R241, R301: `RESET` is performed in the host step, busy or idle, and raises nothing: the state of a hard reset, with
the element memories kept. -/
def Obligations.ResetCommandClearsAllButMemories : Prop :=
  ∀ s : State, ∃ t, exec .reset s = .next t ∧
    statusWord t = 0x00000410 ∧ t.err = 0 ∧ t.ie = 0 ∧ t.ipDone = false ∧ t.tdWin = true ∧
    t = { State.resetOf s.build with
          tw := s.tw, br := s.br, win := s.win, inp := s.inp, work := s.work, out := s.out
          dwin := s.dwin, dv := s.dv, top := s.top
          pending := s.pending, rst := s.rst, rsp := s.rsp, nanDraws := s.nanDraws }

/-- R142 to R146: `TE.INIT 2^L`, accepted, completes after `2N + 2` sequencer steps with the three tables built for
`N = 2^L`, the sizes and `TE_VALID` set, the working and output flags and the input cursor cleared, and nothing else
changed. -/
def Obligations.TeInitBuildsTheTables : Prop :=
  ∀ (s : State) (L : Nat), ready s = true → 1 ≤ L → L ≤ s.build.log2nMax → s.build.log2nMax ≤ 23 →
    ∃ t u, exec (.teInit (2 ^ L)) s = .next t ∧ run (2 * 2 ^ L + 2) t = .next u ∧
      u = { idleAfter (0x01000000 + BitVec.ofNat 32 (2 ^ L)) s with
            tw := u.tw, br := u.br, win := u.win
            teN := 2 ^ L, teLog2n := L, teValid := true, workValid := false, outValid := false, teIncnt := 0 } ∧
      (∀ k, memRead u.tw k = if k < 2 ^ L / 2 then some (twid s.build (2 ^ L) k) else memRead s.tw k) ∧
      (∀ i, memRead u.br i = if i < 2 ^ L then some (bitrev L i) else memRead s.br i) ∧
      (∀ m, memRead u.win m = if m ≤ 2 ^ L / 2 then some (hann s.build (2 ^ L) m) else memRead s.win m)

/-- R151 to R153: `TD.INIT n`, accepted, completes after `n div 2 + 2` sequencer steps with the window table built, and
nothing else changed but what R153 says. -/
def Obligations.TdInitBuildsTheWindow : Prop :=
  ∀ (s : State) (n : Nat), ready s = true → 1 ≤ n → n ≤ 2 ^ s.build.log2ndMax → s.build.log2ndMax ≤ 23 →
    ∃ t u, exec (.tdInit n) s = .next t ∧ run (n / 2 + 2) t = .next u ∧
      u = { idleAfter (0x11000000 + BitVec.ofNat 32 n) s with
            dwin := u.dwin
            tdN := n, tdValid := true, onsValid := false, topValid := false, tdIncnt := 0 } ∧
      (∀ m, memRead u.dwin m = if m ≤ n / 2 then some (hann s.build n m) else memRead s.dwin m)

/-- R162 to R164: `TE.WINLD`, accepted, completes after `N + 1` sequencer steps; every `WORK[i]` below N is the windowed
sample of bit-reversed index with imaginary part `+0`, and nothing else changes but what R164 says. -/
def Obligations.WinldWindowsAndReorders : Prop :=
  ∀ s : State, Inv s → ready s = true → s.teValid = true → s.teIncnt = s.teN →
    ∃ t u, exec .teWinld s = .next t ∧ run (s.teN + 1) t = .next u ∧
      u = { idleAfter 0x02000000 s with
            work := u.work, workValid := true, teIncnt := 0, nanDraws := s.nanDraws + s.teN } ∧
      (∀ i, i < s.teN → ∃ r x w, memRead s.br i = some r ∧ memRead s.inp r = some x ∧
        memRead s.win (min r (s.teN - r)) = some w ∧
        memRead u.work i = some { re := fmul s.build.flen (s.nanDraws + i) x w, im := 0 }) ∧
      (∀ i, s.teN ≤ i → memRead u.work i = memRead s.work i)

/-- R165 to R167: `TE.STAGE s`, accepted, completes after `N/2 + 1` sequencer steps; for every butterfly of the stage
both elements are computed from the values before the command, and nothing else changes. -/
def Obligations.StageDoesEveryButterfly : Prop :=
  ∀ (s : State) (k : Nat), Inv s → ready s = true → s.teValid = true → s.workValid = true → k < s.teLog2n →
    ∃ t u, exec (.teStage k) s = .next t ∧ run (s.teN / 2 + 1) t = .next u ∧
      u = { idleAfter (0x03000000 + BitVec.ofNat 32 k) s with
            work := u.work, nanDraws := s.nanDraws + 10 * (s.teN / 2) } ∧
      (∀ q, q < s.teN / 2 → ∃ w v l,
        memRead s.tw (q % 2 ^ k * (s.teN / (2 * 2 ^ k))) = some w ∧
        memRead s.work (q / 2 ^ k * (2 * 2 ^ k) + q % 2 ^ k + 2 ^ k) = some v ∧
        memRead s.work (q / 2 ^ k * (2 * 2 ^ k) + q % 2 ^ k) = some l ∧
        memRead u.work (q / 2 ^ k * (2 * 2 ^ k) + q % 2 ^ k + 2 ^ k) =
          some (csub s.build.flen (s.nanDraws + 10 * q + 6) l (cmul s.build.flen (s.nanDraws + 10 * q) w v)) ∧
        memRead u.work (q / 2 ^ k * (2 * 2 ^ k) + q % 2 ^ k) =
          some (cadd s.build.flen (s.nanDraws + 10 * q + 8) l (cmul s.build.flen (s.nanDraws + 10 * q) w v))) ∧
      (∀ i, s.teN ≤ i → memRead u.work i = memRead s.work i)

/-- R169, R170: `TE.MAG`, accepted, completes after `N/2 + 2` sequencer steps; every `OUT[k]` up to N/2 is the modulus of
`WORK[k]`, and nothing else changes but `OUT_VALID`. -/
def Obligations.MagWritesTheMagnitudes : Prop :=
  ∀ s : State, Inv s → ready s = true → s.teValid = true → s.workValid = true →
    ∃ t u, exec .teMag s = .next t ∧ run (s.teN / 2 + 2) t = .next u ∧
      u = { idleAfter 0x04000000 s with
            out := u.out, outValid := true, nanDraws := s.nanDraws + 4 * (s.teN / 2 + 1) } ∧
      (∀ k, k ≤ s.teN / 2 → ∃ z, memRead s.work k = some z ∧
        memRead u.out k = some (cabs s.build.flen (s.nanDraws + 4 * k) z)) ∧
      (∀ k, s.teN / 2 < k → memRead u.out k = memRead s.out k)

/-- R173 to R175: `TE.XFORM`, accepted, completes after as many sequencer steps as R238 says, sets both flags, empties the
input, and changes nothing but `WORK`, `OUT` and those; every `OUT[k]` is the modulus of the `WORK[k]` it leaves. -/
def Obligations.XformLeavesSpectrumAndMagnitudes : Prop :=
  ∀ s : State, Inv s → ready s = true → s.teValid = true → s.teIncnt = s.teN →
    ∃ t u, exec .teXform s = .next t ∧
      run (s.teN + s.teLog2n * (s.teN / 2) + s.teN / 2 + 2) t = .next u ∧
      u = { idleAfter 0x05000000 s with
            work := u.work, out := u.out, workValid := true, outValid := true, teIncnt := 0
            nanDraws := s.nanDraws + s.teN + 10 * (s.teLog2n * (s.teN / 2)) + 4 * (s.teN / 2 + 1) } ∧
      (∀ k, k ≤ s.teN / 2 → ∃ z, memRead u.work k = some z ∧
        memRead u.out k = some
          (cabs s.build.flen (s.nanDraws + s.teN + 10 * (s.teLog2n * (s.teN / 2)) + 4 * k) z)) ∧
      (∀ i, s.teN ≤ i → memRead u.work i = memRead s.work i) ∧
      (∀ k, s.teN / 2 < k → memRead u.out k = memRead s.out k)

/-- R176: from the same idle state `TE.XFORM` and its steps as separate commands leave the same state, but for the latch
`CUR`, which is meaningless while idle (R42). That NaN results have the same bits in both runs rests on the model's
numbering of the free values (log 3), and the waiting on the engine stepping by itself (log 12). -/
def Obligations.XformEqualsItsSteps : Prop :=
  ∀ s : State, Inv s → ready s = true → s.teValid = true → s.teIncnt = s.teN →
    ∃ u v, runCommand .teXform s = .next u ∧
      runCommands ([Instr.teWinld] ++ (List.range s.teLog2n).map Instr.teStage ++ [Instr.teMag]) s = .next v ∧
      { u with cur := 0 } = { v with cur := 0 }

/-- R178, first point: a block of `N` samples `+0` gives `N/2 + 1` magnitudes `+0`, whatever the tables hold, as long as
their entries are finite with absolute value at most 1 (`tw_finite`, `hann_range` of R124). -/
def Obligations.AllZeroInputGivesAllZeroSpectrum : Prop :=
  ∀ s : State, Inv s → ready s = true → s.teValid = true → s.teIncnt = s.teN →
    (∀ i, i < s.teN → memRead s.inp i = some 0) →
    (∀ m w, memRead s.win m = some w → unitBounded s.build.flen w = true) →
    (∀ k w, memRead s.tw k = some w →
      unitBounded s.build.flen w.re = true ∧ unitBounded s.build.flen w.im = true) →
    ∃ u, runCommand .teXform s = .next u ∧ ∀ k, k ≤ s.teN / 2 → memRead u.out k = some 0

/-- R191 to R194: `TD.ONSET`, accepted, completes after `ND` sequencer steps; every `DV[n]` from 1 on is the rectified
difference of the pushed values, no NaN and with a clear sign bit, `DV[0]` and all else are kept, `ONS_VALID` is set. -/
def Obligations.OnsetDifferencesThePushedSeries : Prop :=
  ∀ s : State, Inv s → ready s = true → s.tdValid = true → s.onsValid = false → s.tdIncnt = s.tdN →
    ∃ t u, exec .tdOnset s = .next t ∧ run s.tdN t = .next u ∧
      u = { idleAfter 0x12000000 s with dv := u.dv, onsValid := true, nanDraws := s.nanDraws + (s.tdN - 1) } ∧
      (∀ n, 1 ≤ n → n < s.tdN → ∃ x y, memRead s.dv n = some x ∧ memRead s.dv (n - 1) = some y ∧
        memRead u.dv n = some (onsmax s.build.flen (fsub s.build.flen (s.nanDraws + (s.tdN - 1 - n)) x y)) ∧
        ∀ z, memRead u.dv n = some z → isNaN s.build.flen z = false ∧ z.toNat < 2 ^ (flenBits s.build.flen - 1)) ∧
      (∀ n, n = 0 ∨ s.tdN ≤ n → memRead u.dv n = memRead s.dv n)

/-- R195 to R206: `TD.SWEEP`, accepted, completes after `1 + C (ND + 2) + 1` sequencer steps; `TOP` is the ranked
collection of the sweep as a function of the series, the window and the registers, filled up with `(+0, 0)`; nothing
else changes but the hidden state and what R206 says. -/
def Obligations.SweepRanksTheCandidates : Prop :=
  ∀ s : State, Inv s → ready s = true → s.tdValid = true → s.onsValid = true → s.tdLo ≠ 0 →
    finitePositive s.build.flen s.tdFs = true →
    ∃ t u, exec .tdSweep s = .next t ∧
      run (1 + (s.tdHi.toNat - s.tdLo.toNat) * (s.tdN + 2) + 1) t = .next u ∧
      u = { idleAfter 0x13000000 s with
            top := u.top, topcnt := u.topcnt, b := u.b, sre := u.sre, sim := u.sim
            pres := u.pres, pslope := u.pslope, topValid := true, onsValid := false, tdIncnt := 0
            nanDraws := s.nanDraws + (s.tdHi.toNat - s.tdLo.toNat) * (5 * s.tdN + 6) } ∧
      (∀ r, r < s.build.slots → memRead u.top r = some
        (((sweepTracker s s.nanDraws (s.tdHi.toNat - s.tdLo.toNat)).ranked[r]?).getD
          { str := 0, cand := 0 })) ∧
      u.topcnt = (sweepTracker s s.nanDraws (s.tdHi.toNat - s.tdLo.toNat)).ranked.length

/-- R208: from the same idle state `TD.DETECT` and `TD.ONSET` then `TD.SWEEP` leave the same state, but for the latch
`CUR`; `TD.DETECT` takes the sequencer steps R238 says. That NaN results have the same bits in both runs rests on the model's
numbering of the free values (log 3), and the waiting on the engine stepping by itself (log 12). -/
def Obligations.DetectEqualsOnsetThenSweep : Prop :=
  ∀ s : State, Inv s → ready s = true → s.tdValid = true → s.onsValid = false → s.tdIncnt = s.tdN → s.tdLo ≠ 0 →
    finitePositive s.build.flen s.tdFs = true →
    ∃ t u v, exec .tdDetect s = .next t ∧
      run (s.tdN + (s.tdHi.toNat - s.tdLo.toNat) * (s.tdN + 2) + 1) t = .next u ∧
      u.busy = false ∧ u.topValid = true ∧ u.onsValid = false ∧ u.tdIncnt = 0 ∧
      runCommands [.tdOnset, .tdSweep] s = .next v ∧ { u with cur := 0 } = { v with cur := 0 }

/-- R235, R237, R238, with the model's choice that an engine left alone steps by itself (log 12): a busy engine takes one
step for each micro-operation left and then completes; it is busy until then. -/
def Obligations.BusyEngineCompletesItsList : Prop :=
  ∀ s : State, Inv s → s.busy = true → s.rst = false → s.pending = [] →
    ∃ i u, decode s.cur = .ok i ∧ run (listLen i s - s.seq + 1) s = .next u ∧ u.busy = false ∧ u.seq = 0 ∧
      u.ipDone = true ∧
      ∀ k, k ≤ listLen i s - s.seq → ∃ v, run k s = .next v ∧ v.busy = true ∧ v.seq = s.seq + k

/-! ## Micro-operations and their lists -/

/-- R142, R151: the lists of the construction commands, in order and complete. -/
def Obligations.ConstructionListsAreInOrder : Prop :=
  ∀ (s : State) (h n : Nat),
    (List.range (listLen (.teInit (2 * h)) s)).map (uopAt (.teInit (2 * h)) s) =
      ((List.range h).map MicroOp.twgen ++ (List.range (2 * h)).map MicroOp.brgen ++
        (List.range (h + 1)).map MicroOp.wingen).map some ∧
    (List.range (listLen (.tdInit n) s)).map (uopAt (.tdInit n) s) =
      ((List.range (n / 2 + 1)).map MicroOp.dwgen).map some

/-- R161, R165, R169, R174: the lists of the transform commands, in order and complete. -/
def Obligations.TransformListsAreInOrder : Prop :=
  ∀ (s : State) (h k : Nat), 0 < h → s.teN = 2 * h →
    (List.range (listLen .teWinld s)).map (uopAt .teWinld s) = ((List.range s.teN).map MicroOp.wld).map some ∧
    (List.range (listLen (.teStage k) s)).map (uopAt (.teStage k) s) = ((List.range h).map (MicroOp.bfly k)).map some ∧
    (List.range (listLen .teMag s)).map (uopAt .teMag s) = ((List.range (h + 1)).map MicroOp.magk).map some ∧
    (List.range (listLen .teXform s)).map (uopAt .teXform s) =
      ((List.range s.teN).map MicroOp.wld ++
        (List.range s.teLog2n).flatMap (fun j => (List.range h).map (MicroOp.bfly j)) ++
        (List.range (h + 1)).map MicroOp.magk).map some

/-- R191, R196, R207: the lists of the detector commands, in order and complete. -/
def Obligations.DetectorListsAreInOrder : Prop :=
  ∀ s : State,
    (List.range (listLen .tdOnset s)).map (uopAt .tdOnset s) =
      ((List.range (s.tdN - 1)).reverse.map (fun n => MicroOp.ons (n + 1))).map some ∧
    (List.range (listLen .tdSweep s)).map (uopAt .tdSweep s) =
      ([MicroOp.topclr] ++ (List.range (s.tdHi.toNat - s.tdLo.toNat)).flatMap (fun c =>
        [MicroOp.cbeg (s.tdLo.toNat + c)] ++ (List.range s.tdN).map (MicroOp.cor (s.tdLo.toNat + c)) ++
          [MicroOp.peak (s.tdLo.toNat + c)])).map some ∧
    (List.range (listLen .tdDetect s)).map (uopAt .tdDetect s) =
      (List.range (listLen .tdOnset s)).map (uopAt .tdOnset s) ++
        (List.range (listLen .tdSweep s)).map (uopAt .tdSweep s)

/-- R234: a micro-operation writes only element memories and hidden detector state (and uses up free NaN draws). -/
def Obligations.MicroOperationsWriteOnlyMemories : Prop :=
  ∀ (u : MicroOp) (s t : State), perform u s = .ok t →
    t = { s with
          tw := t.tw, br := t.br, win := t.win, work := t.work, out := t.out, dwin := t.dwin, dv := t.dv, top := t.top
          b := t.b, sre := t.sre, sim := t.sim, pres := t.pres, pslope := t.pslope, topcnt := t.topcnt
          nanDraws := t.nanDraws }

/-- R130, R167, R171: the pairs of one stage stay inside `WORK`, are disjoint and cover every index once, and the twiddle
index stays inside `TW`. -/
def Obligations.ButterflyPairsTileTheArray : Prop :=
  ∀ L k : Nat, k < L →
    (∀ q, q < 2 ^ (L - 1) →
      bflyUpper k q < 2 ^ L ∧ bflyLower k q < bflyUpper k q ∧ bflyTwidx (2 ^ L) k q < 2 ^ (L - 1)) ∧
    (∀ j, j < 2 ^ L → ∃ q, (q < 2 ^ (L - 1) ∧ (j = bflyLower k q ∨ j = bflyUpper k q)) ∧
      ∀ q', q' < 2 ^ (L - 1) → (j = bflyLower k q' ∨ j = bflyUpper k q') → q' = q)

/-- R171: two butterflies of one stage give the same `WORK` in either order, bit for bit, each with its own draws. -/
def Obligations.ButterfliesOfAStageCommute : Prop :=
  ∀ (s : State) (k q q' d d' : Nat), q ≠ q' →
    ∀ a b a' b' : State,
      doBfly k q { s with nanDraws := d } = .ok a → doBfly k q' { a with nanDraws := d' } = .ok b →
      doBfly k q' { s with nanDraws := d' } = .ok a' → doBfly k q { a' with nanDraws := d } = .ok b' →
      ∀ j, memRead b.work j = memRead b'.work j

/-- R144, R147: bit reversal moves bit `b` to bit `L - 1 - b`, stays below N, is its own inverse,
and takes 0, 1 and N - 1 where R147 says. -/
def Obligations.BitReversalIsItsOwnInverse : Prop :=
  ∀ L i : Nat, i < 2 ^ L →
    (∀ b, b < L → (bitrev L i).testBit (L - 1 - b) = i.testBit b) ∧
    bitrev L i < 2 ^ L ∧ bitrev L (bitrev L i) = i ∧ bitrev L 0 = 0 ∧ bitrev L (2 ^ L - 1) = 2 ^ L - 1 ∧
      (1 ≤ L → bitrev L 1 = 2 ^ L / 2)

/-- R205: `INSERT` into a collection of `TOPCNT` entries is the ranked insertion on lists, of at most S entries; the
entries of `TOP` behind them are kept, and so is descending strength as long as no strength is a NaN. -/
def Obligations.InsertKeepsTheStrongestInOrder : Prop :=
  ∀ (s : State) (str : T) (cand : BitVec 24) (l : List TopEntry),
    1 ≤ s.build.slots → s.topcnt = l.length → l.length ≤ s.build.slots →
    (∀ r, r < l.length → memRead s.top r = l[r]?) →
    ∃ t, insertTop str cand s = .ok t ∧
      t.topcnt = (rankInsert s.build.flen s.build.slots { str := str, cand := cand } l).length ∧
      t.topcnt ≤ s.build.slots ∧
      (∀ r, r < t.topcnt →
        memRead t.top r = (rankInsert s.build.flen s.build.slots { str := str, cand := cand } l)[r]?) ∧
      (∀ r, t.topcnt ≤ r → memRead t.top r = memRead s.top r) ∧
      t = { s with top := t.top, topcnt := t.topcnt } ∧
      (isNaN s.build.flen str = false → (∀ x ∈ l, isNaN s.build.flen x.str = false) →
        Descending s.build.flen l →
        Descending s.build.flen (rankInsert s.build.flen s.build.slots { str := str, cand := cand } l))

/-- R204, R212: when the present result is a NaN, `PEAK` inserts nothing and only moves the tracker on. -/
def Obligations.PeakOfANanInsertsNothing : Prop :=
  ∀ (s : State) (i : Nat),
    isNaN s.build.flen (cabs s.build.flen s.nanDraws { re := s.sre, im := s.sim }) = true →
    ∃ t, perform (.peak i) s = .ok t ∧ t.top = s.top ∧ t.topcnt = s.topcnt ∧
      t.pres = cabs s.build.flen s.nanDraws { re := s.sre, im := s.sim } ∧ isNaN s.build.flen t.pslope = true

/-! ## The host port (20_memory.md) -/

/-- R67: a read of a register answers at any time, with the register's value zero-extended, or with 0 for the three
write-only ones, and changes nothing but the port's answer; an index outside the table of R23 is refused with `E_ACC`
and reads 0. -/
def Obligations.RegisterReadsOnlyAnswer : Prop :=
  ∀ (s : State) (a : Addr) (rest : List Event), s.rst = false → s.pending = .hostRead a :: rest →
    addrSpace a = 0 →
    (∀ r, regAt (addrIdx a) = some r →
      step s = .next { s with pending := rest, rsp := .read (regValue s r) }) ∧
    (regAt (addrIdx a) = none ↔
      addrIdx a ∈ [9, 10, 11, 12, 13, 14, 15, 0x14, 0x15, 0x16, 0x17] ∨ 0x20 ≤ addrIdx a) ∧
    (regAt (addrIdx a) = none →
      step s = .next { raise .acc a s with pending := rest, rsp := .read 0 }) ∧
    (∀ x : Word,
      (a = 0x00 ∧ x = (capWord s.build).zeroExtend 64) ∨ (a = 0x01 ∧ x = (statusWord s).zeroExtend 64) ∨
      (a = 0x02 ∧ x = 0) ∨ (a = 0x03 ∧ x = s.err.zeroExtend 64) ∨ (a = 0x04 ∧ x = s.ecode.zeroExtend 64) ∨
      (a = 0x05 ∧ x = s.einfo.zeroExtend 64) ∨ (a = 0x06 ∧ x = s.ie.zeroExtend 64) ∨
      (a = 0x07 ∧ x = (ipWord s).zeroExtend 64) ∨ (a = 0x08 ∧ x = BitVec.ofNat 64 (s.seq % 2 ^ 32)) ∨
      (a = 0x10 ∧ x = BitVec.ofNat 64 s.teN ∧ s.teN < 2 ^ 24) ∨
      (a = 0x11 ∧ x = BitVec.ofNat 64 s.teLog2n ∧ s.teLog2n < 2 ^ 5) ∨
      (a = 0x12 ∧ x = BitVec.ofNat 64 s.teIncnt ∧ s.teIncnt < 2 ^ 24) ∨ (a = 0x13 ∧ x = 0) ∨
      (a = 0x18 ∧ x = BitVec.ofNat 64 s.tdN ∧ s.tdN < 2 ^ 24) ∨
      (a = 0x19 ∧ x = BitVec.ofNat 64 s.tdIncnt ∧ s.tdIncnt < 2 ^ 24) ∨ (a = 0x1A ∧ x = 0) ∨
      (a = 0x1B ∧ x = s.tdFs) ∨ (a = 0x1C ∧ x = s.tdFrame.zeroExtend 64) ∨
      (a = 0x1D ∧ x = s.tdLo.zeroExtend 64) ∨ (a = 0x1E ∧ x = s.tdHi.zeroExtend 64) ∨
      (a = 0x1F ∧ x = (if s.tdWin then 1 else 0)) →
      step s = .next { s with pending := rest, rsp := .read x })

/-- R64: a read of an element memory is refused with `E_BUSY` while busy, with `E_ACC` at or beyond the visible extent
(every index of an unmapped space), and else answers the word of the layout of R62 and changes nothing. -/
def Obligations.MemoryReadsStayInTheVisibleExtent : Prop :=
  ∀ (s : State) (a : Addr) (rest : List Event), Inv s → s.rst = false → s.pending = .hostRead a :: rest →
    addrSpace a ≠ 0 →
    (s.busy = true → step s = .next { raise .busy a s with pending := rest, rsp := .read 0 }) ∧
    (s.busy = false → extent s (addrSpace a) ≤ addrIdx a →
      step s = .next { raise .acc a s with pending := rest, rsp := .read 0 }) ∧
    (s.busy = false → addrIdx a < extent s (addrSpace a) →
      ∃ name v, memOfSpace (addrSpace a) = some name ∧ memWord s name (addrIdx a) = .ok v ∧
        step s = .next { s with pending := rest, rsp := .read v })

/-- R66, R68: a write to an element memory, to an unmapped register or to a read-only register is refused with `E_ACC`,
busy or idle. -/
def Obligations.ReadOnlyPlacesRefuseWrites : Prop :=
  ∀ (s : State) (a : Addr) (v : Word) (rest : List Event), s.rst = false → s.pending = .hostWrite a v :: rest →
    (addrSpace a ≠ 0 ∨ (addrSpace a = 0 ∧ regAt (addrIdx a) = none) ∨
      a ∈ ([0x00, 0x01, 0x04, 0x05, 0x08, 0x10, 0x11, 0x12, 0x18, 0x19] : List Addr)) →
    step s = .next { raise .acc a s with pending := rest, rsp := .written }

/-- R232, R68: while busy, a write to a push port or a detector register is refused with `E_BUSY`; `IE` and `IP` are
written as when idle. -/
def Obligations.BusyEngineLocksThePort : Prop :=
  ∀ (s : State) (a : Addr) (v : Word) (rest : List Event), s.rst = false → s.busy = true →
    s.pending = .hostWrite a v :: rest →
    (a ∈ ([0x13, 0x1A, 0x1B, 0x1C, 0x1D, 0x1E, 0x1F] : List Addr) →
      step s = .next { raise .busy a s with pending := rest, rsp := .written }) ∧
    (a = 0x06 → step s = .next { s with ie := v.extractLsb' 0 2, pending := rest, rsp := .written }) ∧
    (a = 0x07 → step s = .next
      { s with ipDone := s.ipDone && !v.getLsbD 0, pending := rest, rsp := .written })

/-- R73, R74: while idle, a push into a buffer that is not full appends one datum of `FLEN` bits at the cursor and moves
the cursor; a push without capacity or into a full buffer is refused with `E_OVF`. -/
def Obligations.PushAppendsAtTheCursor : Prop :=
  ∀ (s : State) (a : Addr) (v : Word) (rest : List Event), s.rst = false → s.busy = false →
    s.pending = .hostWrite a v :: rest →
    (a = 0x13 → s.teValid = true → s.teIncnt ≠ s.teN →
      step s = .next { s with
        inp := memWrite s.inp s.teIncnt (truncT s.build.flen v), teIncnt := s.teIncnt + 1
        pending := rest, rsp := .written }) ∧
    (a = 0x13 → s.teValid = false ∨ s.teIncnt = s.teN →
      step s = .next { raise .ovf a s with pending := rest, rsp := .written }) ∧
    (a = 0x1A → s.tdValid = true → s.tdIncnt ≠ s.tdN →
      step s = .next { s with
        dv := memWrite s.dv s.tdIncnt (truncT s.build.flen v), tdIncnt := s.tdIncnt + 1
        pending := rest, rsp := .written }) ∧
    (a = 0x1A → s.tdValid = false ∨ s.tdIncnt = s.tdN →
      step s = .next { raise .ovf a s with pending := rest, rsp := .written })

/-- R35 to R38: while idle, the detector's registers take the low bits of the written word and keep all else. -/
def Obligations.DetectorRegistersTakeWrites : Prop :=
  ∀ (s : State) (a : Addr) (v : Word) (rest : List Event), s.rst = false → s.busy = false →
    s.pending = .hostWrite a v :: rest →
    (a = 0x1B → step s = .next { s with tdFs := truncT s.build.flen v, pending := rest, rsp := .written }) ∧
    (a = 0x1C → step s = .next { s with tdFrame := BitVec.ofNat 32 v.toNat, pending := rest, rsp := .written }) ∧
    (a = 0x1D → step s = .next { s with tdLo := BitVec.ofNat 24 v.toNat, pending := rest, rsp := .written }) ∧
    (a = 0x1E → step s = .next { s with tdHi := BitVec.ofNat 24 v.toNat, pending := rest, rsp := .written }) ∧
    (a = 0x1F → step s = .next { s with tdWin := decide (v.toNat % 2 = 1), pending := rest, rsp := .written })

/-- R68, R266: a write of ones to `ERR` clears exactly the named flags among bits 8 to 1; the write that leaves no flag
clears the record too, any other keeps it; nothing else changes. It works busy or idle. -/
def Obligations.ErrWriteClearsNamedFlags : Prop :=
  ∀ (s : State) (v : Word) (rest : List Event), s.rst = false → s.pending = .hostWrite 0x00000003 v :: rest →
    ∃ t, step s = .next t ∧
      (∀ j, j < 32 → t.err.getLsbD j = (s.err.getLsbD j && !(decide (1 ≤ j ∧ j ≤ 8) && v.getLsbD j))) ∧
      (t.err = 0 → t.ecode = 0 ∧ t.einfo = 0) ∧
      (t.err ≠ 0 → t.ecode = s.ecode ∧ t.einfo = s.einfo) ∧
      t = { s with err := t.err, ecode := t.ecode, einfo := t.einfo, pending := rest, rsp := .written }

/-- R29, R270, R271: the interrupt line is high exactly when completion is pending and enabled, or an error flag is set
and errors are enabled. -/
def Obligations.InterruptLineIsPendingAndEnabled : Prop :=
  ∀ s : State, irq s = true ↔
    (s.ipDone = true ∧ s.ie.getLsbD 0 = true) ∨ (s.err ≠ 0 ∧ s.ie.getLsbD 1 = true)

/-- R236: while a command runs, host transactions in any number and order among the sequencer's steps (but no reset) do
not change what the engine does: as long as the list is not finished, the engine is the same as if the sequencer had
been left alone, and so it is after the completion step that follows. -/
def Obligations.HostCannotDisturbARunningCommand : Prop :=
  ∀ (s : State) (es : List Event) (i : Instr), Inv s → s.busy = true → s.rst = false → decode s.cur = .ok i →
    (∀ e ∈ es, noReset e = true) → es.count .sequencer ≤ listLen i s - s.seq →
    ∃ t u, run es.length { s with pending := es } = .next t ∧
      run (es.count .sequencer) { s with pending := [] } = .next u ∧
      t.busy = true ∧ engineOf t = engineOf u ∧
      ∃ t' u', run 1 { t with pending := [] } = .next t' ∧ run 1 { u with pending := [] } = .next u' ∧
        engineOf t' = engineOf u'

/-! ## Reset (70_reset_and_hazards.md) -/

/-- R44: what a host reads right after a hard reset, for any build; the OPEN parameters are not part of it. -/
def Obligations.ResetStateReadsAsTheTable : Prop :=
  ∀ b : Build,
    statusWord (State.resetOf b) = 0x00000410 ∧ capWord (State.resetOf b).build = capWord b ∧
    regValue (State.resetOf b) .tdCtrl = 1 ∧ irq (State.resetOf b) = false ∧
    (∀ r ∈ [Reg.err, .ecode, .einfo, .ie, .ip, .seq, .teN, .teLog2n, .teIncnt, .tdN, .tdIncnt, .tdFs, .tdFrame,
      .tdLo, .tdHi], regValue (State.resetOf b) r = 0) ∧
    (∀ m ∈ [MemName.tw, .br, .win, .inp, .work, .out, .dwin, .dv, .top], extentOf (State.resetOf b) m = 0) ∧
    (State.resetOf b).cur = 0 ∧ (State.resetOf b).b = 0 ∧ (State.resetOf b).sre = 0 ∧ (State.resetOf b).sim = 0 ∧
    (State.resetOf b).pres = 0 ∧ (State.resetOf b).pslope = 0 ∧ (State.resetOf b).topcnt = 0

/-- R300: while the reset input is asserted no transaction is accepted and the sequencer does not step: a turn of either
changes nothing. Whatever turns there are between assertion and release, and whatever was running, after the release the
state is that of R44, with the build kept. That the memories are then empty is the model's choice (log 4), and so is that
the port drops a transaction without an answer (log 10). -/
def Obligations.HardResetGivesTheResetState : Prop :=
  (∀ (s : State) (e : Event) (rest : List Event), s.rst = true → e ≠ .resetAssert → e ≠ .resetRelease →
    s.pending = e :: rest → step s = .next { s with pending := rest, rsp := .none }) ∧
  (∀ s : State, s.rst = true → s.pending = [] → step s = .next { s with rsp := .none }) ∧
  (∀ (s : State) (es rest : List Event), (∀ e ∈ es, e ≠ .resetRelease) →
    s.pending = .resetAssert :: (es ++ .resetRelease :: rest) →
    (∀ k, 1 ≤ k → k ≤ es.length + 1 → ∃ t, run k s = .next t ∧ t.rst = true) ∧
    run (es.length + 2) s = .next { State.resetOf s.build with pending := rest, nanDraws := s.nanDraws })

/-! ## Numbers (40_numerics.md) -/

/-- R115: a NaN operand or an invalid operation gives a quiet NaN; its sign and payload are free. Which NaNs are quiet is
the model's presumption (log 14). -/
def Obligations.InvalidOperationsGiveQuietNans : Prop :=
  ∀ (f : Flen) (d : Nat) (a b : T),
    (isNaN f a = true ∨ isNaN f b = true →
      isQuiet f (fadd f d a b) = true ∧ isQuiet f (fsub f d a b) = true ∧ isQuiet f (fmul f d a b) = true ∧
        isQuiet f (fdiv f d a b) = true) ∧
    (isNaN f a = true → isQuiet f (fsqrt f d a) = true) ∧
    (∀ s t, unpack f a = .inf s → unpack f b = .inf t →
      isQuiet f (fdiv f d a b) = true ∧ (s = t → isQuiet f (fsub f d a b) = true) ∧
        (s ≠ t → isQuiet f (fadd f d a b) = true)) ∧
    (∀ s t e, unpack f a = .inf s → unpack f b = .fin t 0 e → isQuiet f (fmul f d a b) = true ∧
      isQuiet f (fmul f d b a) = true) ∧
    (∀ s e t e', unpack f a = .fin s 0 e → unpack f b = .fin t 0 e' → isQuiet f (fdiv f d a b) = true) ∧
    (∀ m e, m ≠ 0 → unpack f a = .fin true m e → isQuiet f (fsqrt f d a) = true) ∧
    (unpack f a = .inf true → isQuiet f (fsqrt f d a) = true)

/-- R111, R112, R114: the sum, the difference and the product of finite numbers are the exact results rounded once to
nearest, ties to even. -/
def Obligations.SumAndProductRoundToNearestEven : Prop :=
  ∀ (f : Flen) (d : Nat) (a b : T) (x y : Rat), fits f a = true → fits f b = true →
    finiteValue f a = some x → finiteValue f b = some y →
    (x + y ≠ 0 → IsRounded f (x + y) (fadd f d a b)) ∧
    (x - y ≠ 0 → IsRounded f (x - y) (fsub f d a b)) ∧
    (x * y ≠ 0 → IsRounded f (x * y) (fmul f d a b))

/-- R111, R114: the quotient by a non-zero finite number and the square root of a positive one are the exact results
rounded once to nearest, ties to even. -/
def Obligations.QuotientAndRootRoundToNearestEven : Prop :=
  ∀ (f : Flen) (d : Nat) (a b : T) (x y : Rat), fits f a = true → fits f b = true →
    finiteValue f a = some x → finiteValue f b = some y →
    (x ≠ 0 → y ≠ 0 → IsRounded f (x / y) (fdiv f d a b)) ∧
    (0 < x → IsRoundedSqrt f x (fsqrt f d a))

/-- R116: the signs of zero results; the sum of two squares, whose root `CABS` takes, is never `-0`. -/
def Obligations.ZeroResultsHaveTheIeeeSign : Prop :=
  ∀ (f : Flen) (d : Nat) (a : T) (s : Bool) (m : Nat) (e : Int), fits f a = true → unpack f a = .fin s m e →
    fadd f d (zeroT f false) (zeroT f true) = zeroT f false ∧
    fadd f d (zeroT f true) (zeroT f true) = zeroT f true ∧
    fsub f d a a = zeroT f false ∧
    fsub f d (zeroT f false) (zeroT f true) = zeroT f false ∧
    fsub f d (zeroT f true) (zeroT f false) = zeroT f true ∧
    (∀ z, fmul f d (zeroT f z) a = zeroT f (z ^^ s) ∧ fmul f d a (zeroT f z) = zeroT f (s ^^ z)) ∧
    (∀ z, fsqrt f d (zeroT f z) = zeroT f z) ∧
    fadd f d (zeroT f false) (zeroT f false) = zeroT f false ∧
    (∀ d₁ d₂ x y, fadd f d (fmul f d₁ x x) (fmul f d₂ y y) ≠ zeroT f true)

/-- R117: comparison with a NaN is false; finite numbers compare as the numbers they denote, so the zeros are equal; the
infinities are the two ends of the order. -/
def Obligations.ComparisonsFollowTheNumbers : Prop :=
  ∀ (f : Flen) (a b : T),
    (isNaN f a = true ∨ isNaN f b = true → fgt f a b = false ∧ fle f a b = false) ∧
    (∀ x y, fits f a = true → fits f b = true → finiteValue f a = some x → finiteValue f b = some y →
      (fgt f a b = true ↔ y < x) ∧ (fle f a b = true ↔ x ≤ y)) ∧
    (unpack f a = .inf false → isNaN f b = false →
      fle f b a = true ∧ fgt f b a = false ∧ (fgt f a b = true ↔ unpack f b ≠ .inf false) ∧
        (fle f a b = true ↔ unpack f b = .inf false)) ∧
    (unpack f a = .inf true → isNaN f b = false →
      fle f a b = true ∧ fgt f a b = false ∧ (fgt f b a = true ↔ unpack f b ≠ .inf true) ∧
        (fle f b a = true ↔ unpack f b = .inf true))

/-- R118: the conversion of an integer below 2^24 is exact in both formats. -/
def Obligations.ConversionIsExact : Prop :=
  ∀ (f : Flen) (u : Nat), u < 2 ^ 24 → fits f (cvt f u) = true ∧ finiteValue f (cvt f u) = some (u : Rat)

/-- R121, R126: a modulus that is no NaN has a clear sign bit; a rectified value is never a NaN, never negative and never
`-0`. -/
def Obligations.ModulusAndRectifierAreNotNegative : Prop :=
  ∀ (f : Flen) (d : Nat) (z : Cplx) (a : T), fits f z.re = true → fits f z.im = true → fits f a = true →
    (isNaN f (cabs f d z) = false → (cabs f d z).toNat < 2 ^ (flenBits f - 1)) ∧
    isNaN f (onsmax f a) = false ∧ (onsmax f a).toNat < 2 ^ (flenBits f - 1)

/-- R124: the reference numerics of the model (log 6) have the named properties `tw_zero`, `tw_quarter`, `tw_finite`,
`tw_sign`, `hann_zero`, `hann_one`, `hann_range`, `rot_zero` and `rot_finite`; `tw_sign` for the sizes R7 allows. -/
def Obligations.ReferenceNumericsHaveTheNamedProperties : Prop :=
  ∀ (f : Flen) (n k : Nat) (b fs : T), 1 ≤ n →
    refTwid f n 0 = { re := cvt f 1, im := 0 } ∧
    (refTwid f (4 * n) n = { re := 0, im := packT f true (cvt f 1).toNat }) ∧
    (unitBounded f (refTwid f n k).re = true ∧ unitBounded f (refTwid f n k).im = true) ∧
    (0 < k → 2 * k < n → (refTwid f n k).im.getLsbD (flenBits f - 1) = true ∧
      (n ≤ 2 ^ 23 → (refTwid f n k).im.toNat % 2 ^ (flenBits f - 1) ≠ 0)) ∧
    refHann f n 0 = 0 ∧ refHann f (2 * n) n = cvt f 1 ∧
    (unitBounded f (refHann f n k) = true ∧ (refHann f n k).toNat < 2 ^ (flenBits f - 1)) ∧
    (∀ z m e m' e', unpack f b = .fin z m e → (z = true → m = 0) → unpack f fs = .fin false m' e' → m' ≠ 0 →
      refRot f b 0 fs = { re := cvt f 1, im := 0 } ∧
      unitBounded f (refRot f b k fs).re = true ∧ unitBounded f (refRot f b k fs).im = true)

/-! ## Invariants -/

/-- The state after reset of any build in the ranges of R7 meets the invariant. -/
def Obligations.ResetMeetsTheInvariant : Prop :=
  ∀ b : Build, b.wf = true → Inv (State.resetOf b)

/-- R45, R234, R260: from every state that meets the invariant, whatever agent's turn is next, the step goes on (no
element that nothing has written is read, so the model's stop of log 4 is out of reach, no fault, no refusal) and the
next state meets the invariant. -/
def Obligations.EveryStepGoesOnAndKeepsTheInvariant : Prop :=
  ∀ s : State, Inv s → ∃ t, step s = .next t ∧ Inv t

/-- R10, R23: on every build, every `T` register, hidden value and element stays within `FLEN` bits. -/
def Obligations.EveryStepKeepsTheWidths : Prop :=
  ∀ s t : State, narrow s = true → step s = .next t → narrow t = true

/-- R22, R24, R44: no step, no command and no reset changes the build's constants. -/
def Obligations.NoStepChangesTheBuild : Prop :=
  ∀ s t : State, step s = .next t → t.build = s.build

/-! ## The tables of the registers, the address map and the infinities -/

/-- R25, R24: every bit of `STATUS`, in every state, and every field of `CAP`, for every build in the ranges of R7. -/
def Obligations.StatusAndCapShowTheirFields : Prop :=
  (∀ s : State, ∀ j, j < 32 → (statusWord s).getLsbD j =
    if j = 0 then s.busy
    else if j = 1 then s.unit
    else if j = 2 then s.teValid
    else if j = 3 then s.teValid && decide (s.teIncnt = s.teN)
    else if j = 4 then decide (s.teIncnt = 0)
    else if j = 5 then s.workValid
    else if j = 6 then s.outValid
    else if j = 8 then s.tdValid
    else if j = 9 then s.tdValid && decide (s.tdIncnt = s.tdN)
    else if j = 10 then decide (s.tdIncnt = 0)
    else if j = 11 then s.onsValid
    else if j = 12 then s.topValid
    else if 16 ≤ j ∧ j ≤ 23 then s.opc.getLsbD (j - 16)
    else false) ∧
  ∀ b : Build, b.wf = true → (capWord b).toNat =
    b.log2nMax + b.log2ndMax * 2 ^ 5 + b.slots * 2 ^ 10 + (if b.flen = .w64 then 2 ^ 18 else 0) +
      (if b.peakReport = .previous then 2 ^ 19 else 0)

/-- R61, R62, R65: the visible extent of each of the sixteen spaces, and the word each index inside it shows, for an idle
engine that meets the invariant; a read at or beyond the extent is refused with `E_ACC`. -/
def Obligations.ReadsFollowTheAddressMap : Prop :=
  ∀ (s : State) (a : Addr) (rest : List Event) (space i n : Nat), Inv s → s.rst = false → s.busy = false →
    s.pending = .hostRead a :: rest → a.toNat = space * 2 ^ 28 + i → i < 2 ^ 28 → space ≠ 0 →
    n = (if space = 0x1 ∧ s.teValid = true then s.teN
      else if space = 0x2 ∧ s.teValid = true then s.teN
      else if space = 0x3 ∧ s.teValid = true then s.teN / 2 + 1
      else if space = 0x4 then s.teIncnt
      else if space = 0x5 ∧ s.workValid = true then 2 * s.teN
      else if space = 0x6 ∧ s.outValid = true then s.teN / 2 + 1
      else if space = 0x8 ∧ s.tdValid = true then s.tdN / 2 + 1
      else if space = 0x9 then s.tdIncnt
      else if space = 0xA ∧ s.topValid = true then 2 * s.build.slots
      else 0) →
    (n ≤ i → step s = .next { raise .acc a s with pending := rest, rsp := .read 0 }) ∧
    (i < n → ∃ v, step s = .next { s with pending := rest, rsp := .read v } ∧
      (space = 0x1 → ∃ z, memRead s.tw (i / 2) = some z ∧ v = if i % 2 = 0 then z.re else z.im) ∧
      (space = 0x2 → ∃ r, memRead s.br i = some r ∧ v = BitVec.ofNat 64 r) ∧
      (space = 0x3 → memRead s.win i = some v) ∧
      (space = 0x4 → memRead s.inp i = some v) ∧
      (space = 0x5 → ∃ z, memRead s.work (i / 2) = some z ∧ v = if i % 2 = 0 then z.re else z.im) ∧
      (space = 0x6 → memRead s.out i = some v) ∧
      (space = 0x8 → memRead s.dwin i = some v) ∧
      (space = 0x9 → memRead s.dv i = some v) ∧
      (space = 0xA → ∃ e, memRead s.top (i / 2) = some e ∧ v = if i % 2 = 0 then e.str else e.cand.zeroExtend 64))

/-- R29, R68: `IE` takes bits 1 and 0 of a write, and a write of 1 to bit 0 of `IP` clears `DONE`, busy or idle, and
nothing else changes. -/
def Obligations.InterruptRegistersTakeWrites : Prop :=
  ∀ (s : State) (v : Word) (rest : List Event), s.rst = false →
    (s.pending = .hostWrite 0x06 v :: rest →
      step s = .next { s with ie := BitVec.ofNat 2 v.toNat, pending := rest, rsp := .written }) ∧
    (s.pending = .hostWrite 0x07 v :: rest →
      step s = .next
        { s with ipDone := s.ipDone && decide (v.toNat % 2 = 0), pending := rest, rsp := .written })

/-- R111, R113: the valid operations with an infinite operand, the division of a non-zero number by a zero, and the
division of a zero, whatever the draw numbers. -/
def Obligations.InfinitiesFollowIeee : Prop :=
  ∀ (f : Flen) (d : Nat) (a b : T) (p q : Bool) (m : Nat) (e : Int),
    (unpack f (infT f p) = .inf p ∧ unpack f (zeroT f p) = .fin p 0 (expMin f)) ∧
    (unpack f a = .inf p → unpack f b = .fin q m e →
      fadd f d a b = infT f p ∧ fadd f d b a = infT f p ∧ fsub f d a b = infT f p ∧ fsub f d b a = infT f (!p) ∧
        fdiv f d a b = infT f (p ^^ q) ∧ fdiv f d b a = zeroT f (p ^^ q) ∧
        (m ≠ 0 → fmul f d a b = infT f (p ^^ q) ∧ fmul f d b a = infT f (p ^^ q))) ∧
    (unpack f a = .inf p → unpack f b = .inf q →
      fmul f d a b = infT f (p ^^ q) ∧ (p = q → fadd f d a b = infT f p) ∧ (p ≠ q → fsub f d a b = infT f p)) ∧
    (∀ n x, unpack f a = .fin p n x → unpack f b = .fin q m e →
      (n ≠ 0 → m = 0 → fdiv f d a b = infT f (p ^^ q)) ∧ (n = 0 → m ≠ 0 → fdiv f d a b = zeroT f (p ^^ q))) ∧
    (unpack f a = .inf false → fsqrt f d a = infT f false)

end
end

