-- ==== Sys2Proof/Laws/Float.lean ====
section
/-! SUPPORT. The free NaN values (R115): whatever the free bits are, the pattern is a NaN. -/

namespace Sys2Proof.Machine

/-- The exponent and fraction fields of a pattern, by `extractLsb'`. -/
theorem toNat_field (w : T) (lo len : Nat) : w.toNat / 2 ^ lo % 2 ^ len = (w.extractLsb' lo len).toNat := by
  rw [BitVec.extractLsb'_toNat, Nat.shiftRight_eq_div_pow]

theorem quietNaN_w32_exp (d : Nat) : (quietNaN .w32 d).extractLsb' 23 8 = 0xFF := by
  ext i hi
  simp only [quietNaN, BitVec.getElem_extractLsb', BitVec.getLsbD_or, BitVec.getLsbD_and]
  have : i = 0 ∨ i = 1 ∨ i = 2 ∨ i = 3 ∨ i = 4 ∨ i = 5 ∨ i = 6 ∨ i = 7 := by omega
  rcases this with rfl | rfl | rfl | rfl | rfl | rfl | rfl | rfl <;> simp

theorem quietNaN_w64_exp (d : Nat) : (quietNaN .w64 d).extractLsb' 52 11 = 0x7FF := by
  ext i hi
  simp only [quietNaN, BitVec.getElem_extractLsb', BitVec.getLsbD_or, BitVec.getLsbD_and]
  have : i = 0 ∨ i = 1 ∨ i = 2 ∨ i = 3 ∨ i = 4 ∨ i = 5 ∨ i = 6 ∨ i = 7 ∨ i = 8 ∨ i = 9 ∨ i = 10 := by omega
  rcases this with rfl | rfl | rfl | rfl | rfl | rfl | rfl | rfl | rfl | rfl | rfl <;> simp

/-- A pattern whose exponent field is all ones and whose first fraction bit is 1 is a NaN. -/
theorem unpack_nan_of_fields {f : Flen} {w : T} (he : w.toNat / 2 ^ fracBits f % 2 ^ expBits f = 2 ^ expBits f - 1)
    (hq : w.toNat % 2 ^ fracBits f ≠ 0) : unpack f w = .nan := by
  simp only [unpack]
  rw [if_pos he, if_neg hq]

/-- The free value of R115 is a NaN, for every draw. -/
theorem unpack_quietNaN (f : Flen) (d : Nat) : unpack f (quietNaN f d) = .nan := by
  have low : ∀ (w : T) (n : Nat), w.getLsbD n = true → w.toNat % 2 ^ (n + 1) ≠ 0 := by
    intro w n h h0
    have : (w.toNat % 2 ^ (n + 1)).testBit n = true := by
      rw [Nat.testBit_mod_two_pow]
      simpa [BitVec.getLsbD] using h
    rw [h0] at this
    simp at this
  cases f with
  | w32 =>
    refine unpack_nan_of_fields ?_ (low _ 22 ?_)
    · show (quietNaN .w32 d).toNat / 2 ^ 23 % 2 ^ 8 = 255
      rw [toNat_field, quietNaN_w32_exp]
      rfl
    · simp [quietNaN]
  | w64 =>
    refine unpack_nan_of_fields ?_ (low _ 51 ?_)
    · show (quietNaN .w64 d).toNat / 2 ^ 52 % 2 ^ 11 = 2047
      rw [toNat_field, quietNaN_w64_exp]
      rfl
    · simp [quietNaN]

@[simp] theorem isNaN_quietNaN (f : Flen) (d : Nat) : isNaN f (quietNaN f d) = true := by
  simp [isNaN, unpack_quietNaN]

/-- A NaN operand makes the result the free NaN of the operation's own draw. -/
theorem fmul_nan_left {f : Flen} {a : T} (d : Nat) (b : T) (h : unpack f a = .nan) :
    fmul f d a b = quietNaN f d := by
  unfold fmul
  rw [h]

theorem fadd_nan_left {f : Flen} {a : T} (d : Nat) (b : T) (h : unpack f a = .nan) :
    fadd f d a b = quietNaN f d := by
  unfold fadd
  rw [h]

theorem fsqrt_nan {f : Flen} {a : T} (d : Nat) (h : unpack f a = .nan) : fsqrt f d a = quietNaN f d := by
  unfold fsqrt
  rw [h]

theorem cabs_nan_re {f : Flen} {z : Cplx} (d : Nat) (h : unpack f z.re = .nan) :
    cabs f d z = quietNaN f (d + 3) := by
  unfold cabs
  rw [fmul_nan_left d z.re h, fadd_nan_left _ _ (unpack_quietNaN f d), fsqrt_nan _ (unpack_quietNaN f _)]

end Sys2Proof.Machine
end

