-- ==== Sys2Proof/Laws/Memory.lean ====
section
/-! SUPPORT. The element memories: read after write, and every memory operation keeps the canonical form. -/

namespace Sys2Proof.Machine

variable {α : Type}

@[simp] theorem memRead_nil (i : Nat) : memRead ([] : Mem α) i = none := rfl

@[simp] theorem memRead_memWrite_same (m : Mem α) (i : Nat) (v : α) : memRead (memWrite m i v) i = some v := by
  induction m with
  | nil => simp [memWrite, memRead]
  | cons c m ih =>
    obtain ⟨k, w⟩ := c
    simp only [memWrite]
    split
    · simp [memRead]
    · split
      · simp [memRead]
      · next h => simp [memRead, Ne.symm h, ih]

theorem memRead_memWrite_other (m : Mem α) {i j : Nat} (v : α) (h : j ≠ i) :
    memRead (memWrite m i v) j = memRead m j := by
  induction m with
  | nil => simp [memWrite, memRead, Ne.symm h]
  | cons c m ih =>
    obtain ⟨k, w⟩ := c
    simp only [memWrite]
    split
    · simp [memRead, Ne.symm h]
    · split
      · next h' => subst h'; simp [memRead, Ne.symm h]
      · simp [memRead, ih]

theorem memRead_memWrite (m : Mem α) (i j : Nat) (v : α) :
    memRead (memWrite m i v) j = if j = i then some v else memRead m j := by
  by_cases h : j = i
  · subst h; simp
  · simp [h, memRead_memWrite_other m v h]

@[simp] theorem Mem.wf_nil : Mem.wf ([] : Mem α) = true := rfl

/-- Every memory of the reset state is in canonical form. -/
theorem wf_reset (b : Build) :
    Mem.wf (State.resetOf b).tw = true ∧ Mem.wf (State.resetOf b).br = true ∧ Mem.wf (State.resetOf b).win = true ∧
    Mem.wf (State.resetOf b).inp = true ∧ Mem.wf (State.resetOf b).work = true ∧
    Mem.wf (State.resetOf b).out = true ∧ Mem.wf (State.resetOf b).dwin = true ∧
    Mem.wf (State.resetOf b).dv = true ∧ Mem.wf (State.resetOf b).top = true :=
  ⟨rfl, rfl, rfl, rfl, rfl, rfl, rfl, rfl, rfl⟩

theorem Mem.wf_cons (k : Nat) (v : α) (m : Mem α) :
    Mem.wf ((k, v) :: m) = true ↔ (∀ c ∈ m, k < c.1) ∧ Mem.wf m = true := by
  simp [Mem.wf]

theorem mem_memWrite {m : Mem α} {i : Nat} {v : α} {c : Nat × α} (h : c ∈ memWrite m i v) :
    c = (i, v) ∨ c ∈ m := by
  induction m with
  | nil => simpa [memWrite] using h
  | cons d m ih =>
    obtain ⟨k, w⟩ := d
    simp only [memWrite] at h
    split at h
    · simpa using h
    · split at h
      · rcases List.mem_cons.1 h with h | h
        · exact .inl h
        · exact .inr (List.mem_cons_of_mem _ h)
      · rcases List.mem_cons.1 h with h | h
        · exact .inr (by simp [h])
        · rcases ih h with h | h
          · exact .inl h
          · exact .inr (List.mem_cons_of_mem _ h)

/-- A write keeps the canonical form. -/
theorem wf_memWrite {m : Mem α} (i : Nat) (v : α) (h : Mem.wf m = true) : Mem.wf (memWrite m i v) = true := by
  induction m with
  | nil => simp [memWrite, Mem.wf]
  | cons d m ih =>
    obtain ⟨k, w⟩ := d
    obtain ⟨hk, hm⟩ := (Mem.wf_cons k w m).1 h
    simp only [memWrite]
    split
    · next hik =>
      refine (Mem.wf_cons i v _).2 ⟨?_, h⟩
      intro c hc
      rcases List.mem_cons.1 hc with rfl | hc
      · exact hik
      · exact lt_trans hik (hk c hc)
    · split
      · next h' => subst h'; exact (Mem.wf_cons i v m).2 ⟨hk, hm⟩
      · next hik hne =>
        refine (Mem.wf_cons k w _).2 ⟨?_, ih hm⟩
        intro c hc
        rcases mem_memWrite hc with rfl | hc
        · show k < i
          omega
        · exact hk c hc

theorem wf_clearTop (f : Flen) (k : Nat) {m : Mem TopEntry} (h : Mem.wf m = true) :
    Mem.wf (clearTop f k m) = true := by
  induction k with
  | zero => exact h
  | succ r ih => exact wf_memWrite r _ ih

theorem memRead_clearTop (f : Flen) (k i : Nat) (m : Mem TopEntry) :
    memRead (clearTop f k m) i = if i < k then some (emptyEntry f) else memRead m i := by
  induction k with
  | zero => simp [clearTop]
  | succ r ih =>
    rw [clearTop, memRead_memWrite, ih]
    by_cases h : i = r
    · simp [h]
    · have : i < r + 1 ↔ i < r := by omega
      simp [h, this]

@[simp] theorem written_memWrite (m : Mem α) (i j : Nat) (v : α) :
    written (memWrite m i v) j = (decide (j = i) || written m j) := by
  unfold written
  rw [memRead_memWrite]
  by_cases h : j = i <;> simp [h]

/-- Nothing that is written is lost by a write. -/
theorem written_mono {m : Mem α} (i : Nat) (v : α) {j : Nat} (h : written m j = true) :
    written (memWrite m i v) j = true := by simp [h]

theorem written_clearTop (f : Flen) (k i : Nat) (m : Mem TopEntry) :
    written (clearTop f k m) i = (decide (i < k) || written m i) := by
  unfold written
  rw [memRead_clearTop]
  by_cases h : i < k <;> simp [h]

/-- A read of an element answers exactly when the element is written. -/
theorem readElem_ok_iff {name : MemName} {m : Mem α} {i : Nat} {v : α} :
    readElem name m i = .ok v ↔ memRead m i = some v := by
  unfold readElem
  split <;> simp_all

theorem readElem_of_written {name : MemName} {m : Mem α} {i : Nat} (h : written m i = true) :
    ∃ v, memRead m i = some v ∧ readElem name m i = .ok v := by
  obtain ⟨v, hv⟩ := Option.isSome_iff_exists.1 h
  exact ⟨v, hv, readElem_ok_iff.2 hv⟩

theorem readElem_of_read {name : MemName} {m : Mem α} {i : Nat} {v : α} (h : memRead m i = some v) :
    readElem name m i = .ok v := readElem_ok_iff.2 h

end Sys2Proof.Machine
end

