-- ==== Sys2Proof/Laws/State.lean ====
section
/-! SUPPORT. One lemma per field per named update of the state, true by rfl, so that no proof unfolds an update. -/

namespace Sys2Proof.Machine

/-! ## `raise` -/

@[simp] theorem raise_build (e : ErrCode) (x : BitVec 32) (s : State) : (raise e x s).build = s.build := rfl
@[simp] theorem raise_busy (e : ErrCode) (x : BitVec 32) (s : State) : (raise e x s).busy = s.busy := rfl
@[simp] theorem raise_unit (e : ErrCode) (x : BitVec 32) (s : State) : (raise e x s).unit = s.unit := rfl
@[simp] theorem raise_teValid (e : ErrCode) (x : BitVec 32) (s : State) : (raise e x s).teValid = s.teValid := rfl
@[simp] theorem raise_workValid (e : ErrCode) (x : BitVec 32) (s : State) : (raise e x s).workValid = s.workValid := rfl
@[simp] theorem raise_outValid (e : ErrCode) (x : BitVec 32) (s : State) : (raise e x s).outValid = s.outValid := rfl
@[simp] theorem raise_tdValid (e : ErrCode) (x : BitVec 32) (s : State) : (raise e x s).tdValid = s.tdValid := rfl
@[simp] theorem raise_onsValid (e : ErrCode) (x : BitVec 32) (s : State) : (raise e x s).onsValid = s.onsValid := rfl
@[simp] theorem raise_topValid (e : ErrCode) (x : BitVec 32) (s : State) : (raise e x s).topValid = s.topValid := rfl
@[simp] theorem raise_opc (e : ErrCode) (x : BitVec 32) (s : State) : (raise e x s).opc = s.opc := rfl
@[simp] theorem raise_err (e : ErrCode) (x : BitVec 32) (s : State) : (raise e x s).err = s.err ||| (1#32 <<< e.code) := rfl
@[simp] theorem raise_ecode (e : ErrCode) (x : BitVec 32) (s : State) : (raise e x s).ecode = if s.ecode = 0 then BitVec.ofNat 8 e.code else s.ecode := rfl
@[simp] theorem raise_einfo (e : ErrCode) (x : BitVec 32) (s : State) : (raise e x s).einfo = if s.ecode = 0 then x else s.einfo := rfl
@[simp] theorem raise_ie (e : ErrCode) (x : BitVec 32) (s : State) : (raise e x s).ie = s.ie := rfl
@[simp] theorem raise_ipDone (e : ErrCode) (x : BitVec 32) (s : State) : (raise e x s).ipDone = s.ipDone := rfl
@[simp] theorem raise_seq (e : ErrCode) (x : BitVec 32) (s : State) : (raise e x s).seq = s.seq := rfl
@[simp] theorem raise_teN (e : ErrCode) (x : BitVec 32) (s : State) : (raise e x s).teN = s.teN := rfl
@[simp] theorem raise_teLog2n (e : ErrCode) (x : BitVec 32) (s : State) : (raise e x s).teLog2n = s.teLog2n := rfl
@[simp] theorem raise_teIncnt (e : ErrCode) (x : BitVec 32) (s : State) : (raise e x s).teIncnt = s.teIncnt := rfl
@[simp] theorem raise_tdN (e : ErrCode) (x : BitVec 32) (s : State) : (raise e x s).tdN = s.tdN := rfl
@[simp] theorem raise_tdIncnt (e : ErrCode) (x : BitVec 32) (s : State) : (raise e x s).tdIncnt = s.tdIncnt := rfl
@[simp] theorem raise_tdFs (e : ErrCode) (x : BitVec 32) (s : State) : (raise e x s).tdFs = s.tdFs := rfl
@[simp] theorem raise_tdFrame (e : ErrCode) (x : BitVec 32) (s : State) : (raise e x s).tdFrame = s.tdFrame := rfl
@[simp] theorem raise_tdLo (e : ErrCode) (x : BitVec 32) (s : State) : (raise e x s).tdLo = s.tdLo := rfl
@[simp] theorem raise_tdHi (e : ErrCode) (x : BitVec 32) (s : State) : (raise e x s).tdHi = s.tdHi := rfl
@[simp] theorem raise_tdWin (e : ErrCode) (x : BitVec 32) (s : State) : (raise e x s).tdWin = s.tdWin := rfl
@[simp] theorem raise_tw (e : ErrCode) (x : BitVec 32) (s : State) : (raise e x s).tw = s.tw := rfl
@[simp] theorem raise_br (e : ErrCode) (x : BitVec 32) (s : State) : (raise e x s).br = s.br := rfl
@[simp] theorem raise_win (e : ErrCode) (x : BitVec 32) (s : State) : (raise e x s).win = s.win := rfl
@[simp] theorem raise_inp (e : ErrCode) (x : BitVec 32) (s : State) : (raise e x s).inp = s.inp := rfl
@[simp] theorem raise_work (e : ErrCode) (x : BitVec 32) (s : State) : (raise e x s).work = s.work := rfl
@[simp] theorem raise_out (e : ErrCode) (x : BitVec 32) (s : State) : (raise e x s).out = s.out := rfl
@[simp] theorem raise_dwin (e : ErrCode) (x : BitVec 32) (s : State) : (raise e x s).dwin = s.dwin := rfl
@[simp] theorem raise_dv (e : ErrCode) (x : BitVec 32) (s : State) : (raise e x s).dv = s.dv := rfl
@[simp] theorem raise_top (e : ErrCode) (x : BitVec 32) (s : State) : (raise e x s).top = s.top := rfl
@[simp] theorem raise_b (e : ErrCode) (x : BitVec 32) (s : State) : (raise e x s).b = s.b := rfl
@[simp] theorem raise_sre (e : ErrCode) (x : BitVec 32) (s : State) : (raise e x s).sre = s.sre := rfl
@[simp] theorem raise_sim (e : ErrCode) (x : BitVec 32) (s : State) : (raise e x s).sim = s.sim := rfl
@[simp] theorem raise_pres (e : ErrCode) (x : BitVec 32) (s : State) : (raise e x s).pres = s.pres := rfl
@[simp] theorem raise_pslope (e : ErrCode) (x : BitVec 32) (s : State) : (raise e x s).pslope = s.pslope := rfl
@[simp] theorem raise_topcnt (e : ErrCode) (x : BitVec 32) (s : State) : (raise e x s).topcnt = s.topcnt := rfl
@[simp] theorem raise_cur (e : ErrCode) (x : BitVec 32) (s : State) : (raise e x s).cur = s.cur := rfl
@[simp] theorem raise_pending (e : ErrCode) (x : BitVec 32) (s : State) : (raise e x s).pending = s.pending := rfl
@[simp] theorem raise_rst (e : ErrCode) (x : BitVec 32) (s : State) : (raise e x s).rst = s.rst := rfl
@[simp] theorem raise_rsp (e : ErrCode) (x : BitVec 32) (s : State) : (raise e x s).rsp = s.rsp := rfl
@[simp] theorem raise_nanDraws (e : ErrCode) (x : BitVec 32) (s : State) : (raise e x s).nanDraws = s.nanDraws := rfl

/-! ## `clearErrors` -/

@[simp] theorem clearErrors_build (v : BitVec 32) (s : State) : (clearErrors v s).build = s.build := rfl
@[simp] theorem clearErrors_busy (v : BitVec 32) (s : State) : (clearErrors v s).busy = s.busy := rfl
@[simp] theorem clearErrors_unit (v : BitVec 32) (s : State) : (clearErrors v s).unit = s.unit := rfl
@[simp] theorem clearErrors_teValid (v : BitVec 32) (s : State) : (clearErrors v s).teValid = s.teValid := rfl
@[simp] theorem clearErrors_workValid (v : BitVec 32) (s : State) : (clearErrors v s).workValid = s.workValid := rfl
@[simp] theorem clearErrors_outValid (v : BitVec 32) (s : State) : (clearErrors v s).outValid = s.outValid := rfl
@[simp] theorem clearErrors_tdValid (v : BitVec 32) (s : State) : (clearErrors v s).tdValid = s.tdValid := rfl
@[simp] theorem clearErrors_onsValid (v : BitVec 32) (s : State) : (clearErrors v s).onsValid = s.onsValid := rfl
@[simp] theorem clearErrors_topValid (v : BitVec 32) (s : State) : (clearErrors v s).topValid = s.topValid := rfl
@[simp] theorem clearErrors_opc (v : BitVec 32) (s : State) : (clearErrors v s).opc = s.opc := rfl
@[simp] theorem clearErrors_err (v : BitVec 32) (s : State) : (clearErrors v s).err = s.err &&& ~~~(v &&& 0x000001FE) := rfl
@[simp] theorem clearErrors_ecode (v : BitVec 32) (s : State) : (clearErrors v s).ecode = if s.err &&& ~~~(v &&& 0x000001FE) = 0 then 0 else s.ecode := rfl
@[simp] theorem clearErrors_einfo (v : BitVec 32) (s : State) : (clearErrors v s).einfo = if s.err &&& ~~~(v &&& 0x000001FE) = 0 then 0 else s.einfo := rfl
@[simp] theorem clearErrors_ie (v : BitVec 32) (s : State) : (clearErrors v s).ie = s.ie := rfl
@[simp] theorem clearErrors_ipDone (v : BitVec 32) (s : State) : (clearErrors v s).ipDone = s.ipDone := rfl
@[simp] theorem clearErrors_seq (v : BitVec 32) (s : State) : (clearErrors v s).seq = s.seq := rfl
@[simp] theorem clearErrors_teN (v : BitVec 32) (s : State) : (clearErrors v s).teN = s.teN := rfl
@[simp] theorem clearErrors_teLog2n (v : BitVec 32) (s : State) : (clearErrors v s).teLog2n = s.teLog2n := rfl
@[simp] theorem clearErrors_teIncnt (v : BitVec 32) (s : State) : (clearErrors v s).teIncnt = s.teIncnt := rfl
@[simp] theorem clearErrors_tdN (v : BitVec 32) (s : State) : (clearErrors v s).tdN = s.tdN := rfl
@[simp] theorem clearErrors_tdIncnt (v : BitVec 32) (s : State) : (clearErrors v s).tdIncnt = s.tdIncnt := rfl
@[simp] theorem clearErrors_tdFs (v : BitVec 32) (s : State) : (clearErrors v s).tdFs = s.tdFs := rfl
@[simp] theorem clearErrors_tdFrame (v : BitVec 32) (s : State) : (clearErrors v s).tdFrame = s.tdFrame := rfl
@[simp] theorem clearErrors_tdLo (v : BitVec 32) (s : State) : (clearErrors v s).tdLo = s.tdLo := rfl
@[simp] theorem clearErrors_tdHi (v : BitVec 32) (s : State) : (clearErrors v s).tdHi = s.tdHi := rfl
@[simp] theorem clearErrors_tdWin (v : BitVec 32) (s : State) : (clearErrors v s).tdWin = s.tdWin := rfl
@[simp] theorem clearErrors_tw (v : BitVec 32) (s : State) : (clearErrors v s).tw = s.tw := rfl
@[simp] theorem clearErrors_br (v : BitVec 32) (s : State) : (clearErrors v s).br = s.br := rfl
@[simp] theorem clearErrors_win (v : BitVec 32) (s : State) : (clearErrors v s).win = s.win := rfl
@[simp] theorem clearErrors_inp (v : BitVec 32) (s : State) : (clearErrors v s).inp = s.inp := rfl
@[simp] theorem clearErrors_work (v : BitVec 32) (s : State) : (clearErrors v s).work = s.work := rfl
@[simp] theorem clearErrors_out (v : BitVec 32) (s : State) : (clearErrors v s).out = s.out := rfl
@[simp] theorem clearErrors_dwin (v : BitVec 32) (s : State) : (clearErrors v s).dwin = s.dwin := rfl
@[simp] theorem clearErrors_dv (v : BitVec 32) (s : State) : (clearErrors v s).dv = s.dv := rfl
@[simp] theorem clearErrors_top (v : BitVec 32) (s : State) : (clearErrors v s).top = s.top := rfl
@[simp] theorem clearErrors_b (v : BitVec 32) (s : State) : (clearErrors v s).b = s.b := rfl
@[simp] theorem clearErrors_sre (v : BitVec 32) (s : State) : (clearErrors v s).sre = s.sre := rfl
@[simp] theorem clearErrors_sim (v : BitVec 32) (s : State) : (clearErrors v s).sim = s.sim := rfl
@[simp] theorem clearErrors_pres (v : BitVec 32) (s : State) : (clearErrors v s).pres = s.pres := rfl
@[simp] theorem clearErrors_pslope (v : BitVec 32) (s : State) : (clearErrors v s).pslope = s.pslope := rfl
@[simp] theorem clearErrors_topcnt (v : BitVec 32) (s : State) : (clearErrors v s).topcnt = s.topcnt := rfl
@[simp] theorem clearErrors_cur (v : BitVec 32) (s : State) : (clearErrors v s).cur = s.cur := rfl
@[simp] theorem clearErrors_pending (v : BitVec 32) (s : State) : (clearErrors v s).pending = s.pending := rfl
@[simp] theorem clearErrors_rst (v : BitVec 32) (s : State) : (clearErrors v s).rst = s.rst := rfl
@[simp] theorem clearErrors_rsp (v : BitVec 32) (s : State) : (clearErrors v s).rsp = s.rsp := rfl
@[simp] theorem clearErrors_nanDraws (v : BitVec 32) (s : State) : (clearErrors v s).nanDraws = s.nanDraws := rfl

/-! ## `accept` -/

@[simp] theorem accept_build (c : CmdWord) (s : State) : (accept c s).build = s.build := rfl
@[simp] theorem accept_busy (c : CmdWord) (s : State) : (accept c s).busy = true := rfl
@[simp] theorem accept_unit (c : CmdWord) (s : State) : (accept c s).unit = isTdOpcode (opField c) := rfl
@[simp] theorem accept_teValid (c : CmdWord) (s : State) : (accept c s).teValid = s.teValid := rfl
@[simp] theorem accept_workValid (c : CmdWord) (s : State) : (accept c s).workValid = s.workValid := rfl
@[simp] theorem accept_outValid (c : CmdWord) (s : State) : (accept c s).outValid = s.outValid := rfl
@[simp] theorem accept_tdValid (c : CmdWord) (s : State) : (accept c s).tdValid = s.tdValid := rfl
@[simp] theorem accept_onsValid (c : CmdWord) (s : State) : (accept c s).onsValid = s.onsValid := rfl
@[simp] theorem accept_topValid (c : CmdWord) (s : State) : (accept c s).topValid = s.topValid := rfl
@[simp] theorem accept_opc (c : CmdWord) (s : State) : (accept c s).opc = opField c := rfl
@[simp] theorem accept_err (c : CmdWord) (s : State) : (accept c s).err = s.err := rfl
@[simp] theorem accept_ecode (c : CmdWord) (s : State) : (accept c s).ecode = s.ecode := rfl
@[simp] theorem accept_einfo (c : CmdWord) (s : State) : (accept c s).einfo = s.einfo := rfl
@[simp] theorem accept_ie (c : CmdWord) (s : State) : (accept c s).ie = s.ie := rfl
@[simp] theorem accept_ipDone (c : CmdWord) (s : State) : (accept c s).ipDone = s.ipDone := rfl
@[simp] theorem accept_seq (c : CmdWord) (s : State) : (accept c s).seq = 0 := rfl
@[simp] theorem accept_teN (c : CmdWord) (s : State) : (accept c s).teN = s.teN := rfl
@[simp] theorem accept_teLog2n (c : CmdWord) (s : State) : (accept c s).teLog2n = s.teLog2n := rfl
@[simp] theorem accept_teIncnt (c : CmdWord) (s : State) : (accept c s).teIncnt = s.teIncnt := rfl
@[simp] theorem accept_tdN (c : CmdWord) (s : State) : (accept c s).tdN = s.tdN := rfl
@[simp] theorem accept_tdIncnt (c : CmdWord) (s : State) : (accept c s).tdIncnt = s.tdIncnt := rfl
@[simp] theorem accept_tdFs (c : CmdWord) (s : State) : (accept c s).tdFs = s.tdFs := rfl
@[simp] theorem accept_tdFrame (c : CmdWord) (s : State) : (accept c s).tdFrame = s.tdFrame := rfl
@[simp] theorem accept_tdLo (c : CmdWord) (s : State) : (accept c s).tdLo = s.tdLo := rfl
@[simp] theorem accept_tdHi (c : CmdWord) (s : State) : (accept c s).tdHi = s.tdHi := rfl
@[simp] theorem accept_tdWin (c : CmdWord) (s : State) : (accept c s).tdWin = s.tdWin := rfl
@[simp] theorem accept_tw (c : CmdWord) (s : State) : (accept c s).tw = s.tw := rfl
@[simp] theorem accept_br (c : CmdWord) (s : State) : (accept c s).br = s.br := rfl
@[simp] theorem accept_win (c : CmdWord) (s : State) : (accept c s).win = s.win := rfl
@[simp] theorem accept_inp (c : CmdWord) (s : State) : (accept c s).inp = s.inp := rfl
@[simp] theorem accept_work (c : CmdWord) (s : State) : (accept c s).work = s.work := rfl
@[simp] theorem accept_out (c : CmdWord) (s : State) : (accept c s).out = s.out := rfl
@[simp] theorem accept_dwin (c : CmdWord) (s : State) : (accept c s).dwin = s.dwin := rfl
@[simp] theorem accept_dv (c : CmdWord) (s : State) : (accept c s).dv = s.dv := rfl
@[simp] theorem accept_top (c : CmdWord) (s : State) : (accept c s).top = s.top := rfl
@[simp] theorem accept_b (c : CmdWord) (s : State) : (accept c s).b = s.b := rfl
@[simp] theorem accept_sre (c : CmdWord) (s : State) : (accept c s).sre = s.sre := rfl
@[simp] theorem accept_sim (c : CmdWord) (s : State) : (accept c s).sim = s.sim := rfl
@[simp] theorem accept_pres (c : CmdWord) (s : State) : (accept c s).pres = s.pres := rfl
@[simp] theorem accept_pslope (c : CmdWord) (s : State) : (accept c s).pslope = s.pslope := rfl
@[simp] theorem accept_topcnt (c : CmdWord) (s : State) : (accept c s).topcnt = s.topcnt := rfl
@[simp] theorem accept_cur (c : CmdWord) (s : State) : (accept c s).cur = c := rfl
@[simp] theorem accept_pending (c : CmdWord) (s : State) : (accept c s).pending = s.pending := rfl
@[simp] theorem accept_rst (c : CmdWord) (s : State) : (accept c s).rst = s.rst := rfl
@[simp] theorem accept_rsp (c : CmdWord) (s : State) : (accept c s).rsp = s.rsp := rfl
@[simp] theorem accept_nanDraws (c : CmdWord) (s : State) : (accept c s).nanDraws = s.nanDraws := rfl

/-! ## `finish` -/

@[simp] theorem finish_build (s : State) : (finish s).build = s.build := rfl
@[simp] theorem finish_busy (s : State) : (finish s).busy = false := rfl
@[simp] theorem finish_unit (s : State) : (finish s).unit = false := rfl
@[simp] theorem finish_teValid (s : State) : (finish s).teValid = s.teValid := rfl
@[simp] theorem finish_workValid (s : State) : (finish s).workValid = s.workValid := rfl
@[simp] theorem finish_outValid (s : State) : (finish s).outValid = s.outValid := rfl
@[simp] theorem finish_tdValid (s : State) : (finish s).tdValid = s.tdValid := rfl
@[simp] theorem finish_onsValid (s : State) : (finish s).onsValid = s.onsValid := rfl
@[simp] theorem finish_topValid (s : State) : (finish s).topValid = s.topValid := rfl
@[simp] theorem finish_opc (s : State) : (finish s).opc = 0 := rfl
@[simp] theorem finish_err (s : State) : (finish s).err = s.err := rfl
@[simp] theorem finish_ecode (s : State) : (finish s).ecode = s.ecode := rfl
@[simp] theorem finish_einfo (s : State) : (finish s).einfo = s.einfo := rfl
@[simp] theorem finish_ie (s : State) : (finish s).ie = s.ie := rfl
@[simp] theorem finish_ipDone (s : State) : (finish s).ipDone = true := rfl
@[simp] theorem finish_seq (s : State) : (finish s).seq = 0 := rfl
@[simp] theorem finish_teN (s : State) : (finish s).teN = s.teN := rfl
@[simp] theorem finish_teLog2n (s : State) : (finish s).teLog2n = s.teLog2n := rfl
@[simp] theorem finish_teIncnt (s : State) : (finish s).teIncnt = s.teIncnt := rfl
@[simp] theorem finish_tdN (s : State) : (finish s).tdN = s.tdN := rfl
@[simp] theorem finish_tdIncnt (s : State) : (finish s).tdIncnt = s.tdIncnt := rfl
@[simp] theorem finish_tdFs (s : State) : (finish s).tdFs = s.tdFs := rfl
@[simp] theorem finish_tdFrame (s : State) : (finish s).tdFrame = s.tdFrame := rfl
@[simp] theorem finish_tdLo (s : State) : (finish s).tdLo = s.tdLo := rfl
@[simp] theorem finish_tdHi (s : State) : (finish s).tdHi = s.tdHi := rfl
@[simp] theorem finish_tdWin (s : State) : (finish s).tdWin = s.tdWin := rfl
@[simp] theorem finish_tw (s : State) : (finish s).tw = s.tw := rfl
@[simp] theorem finish_br (s : State) : (finish s).br = s.br := rfl
@[simp] theorem finish_win (s : State) : (finish s).win = s.win := rfl
@[simp] theorem finish_inp (s : State) : (finish s).inp = s.inp := rfl
@[simp] theorem finish_work (s : State) : (finish s).work = s.work := rfl
@[simp] theorem finish_out (s : State) : (finish s).out = s.out := rfl
@[simp] theorem finish_dwin (s : State) : (finish s).dwin = s.dwin := rfl
@[simp] theorem finish_dv (s : State) : (finish s).dv = s.dv := rfl
@[simp] theorem finish_top (s : State) : (finish s).top = s.top := rfl
@[simp] theorem finish_b (s : State) : (finish s).b = s.b := rfl
@[simp] theorem finish_sre (s : State) : (finish s).sre = s.sre := rfl
@[simp] theorem finish_sim (s : State) : (finish s).sim = s.sim := rfl
@[simp] theorem finish_pres (s : State) : (finish s).pres = s.pres := rfl
@[simp] theorem finish_pslope (s : State) : (finish s).pslope = s.pslope := rfl
@[simp] theorem finish_topcnt (s : State) : (finish s).topcnt = s.topcnt := rfl
@[simp] theorem finish_cur (s : State) : (finish s).cur = s.cur := rfl
@[simp] theorem finish_pending (s : State) : (finish s).pending = s.pending := rfl
@[simp] theorem finish_rst (s : State) : (finish s).rst = s.rst := rfl
@[simp] theorem finish_rsp (s : State) : (finish s).rsp = s.rsp := rfl
@[simp] theorem finish_nanDraws (s : State) : (finish s).nanDraws = s.nanDraws := rfl

/-! ## `draw` -/

@[simp] theorem draw_build (k : Nat) (s : State) : (draw k s).build = s.build := rfl
@[simp] theorem draw_busy (k : Nat) (s : State) : (draw k s).busy = s.busy := rfl
@[simp] theorem draw_unit (k : Nat) (s : State) : (draw k s).unit = s.unit := rfl
@[simp] theorem draw_teValid (k : Nat) (s : State) : (draw k s).teValid = s.teValid := rfl
@[simp] theorem draw_workValid (k : Nat) (s : State) : (draw k s).workValid = s.workValid := rfl
@[simp] theorem draw_outValid (k : Nat) (s : State) : (draw k s).outValid = s.outValid := rfl
@[simp] theorem draw_tdValid (k : Nat) (s : State) : (draw k s).tdValid = s.tdValid := rfl
@[simp] theorem draw_onsValid (k : Nat) (s : State) : (draw k s).onsValid = s.onsValid := rfl
@[simp] theorem draw_topValid (k : Nat) (s : State) : (draw k s).topValid = s.topValid := rfl
@[simp] theorem draw_opc (k : Nat) (s : State) : (draw k s).opc = s.opc := rfl
@[simp] theorem draw_err (k : Nat) (s : State) : (draw k s).err = s.err := rfl
@[simp] theorem draw_ecode (k : Nat) (s : State) : (draw k s).ecode = s.ecode := rfl
@[simp] theorem draw_einfo (k : Nat) (s : State) : (draw k s).einfo = s.einfo := rfl
@[simp] theorem draw_ie (k : Nat) (s : State) : (draw k s).ie = s.ie := rfl
@[simp] theorem draw_ipDone (k : Nat) (s : State) : (draw k s).ipDone = s.ipDone := rfl
@[simp] theorem draw_seq (k : Nat) (s : State) : (draw k s).seq = s.seq := rfl
@[simp] theorem draw_teN (k : Nat) (s : State) : (draw k s).teN = s.teN := rfl
@[simp] theorem draw_teLog2n (k : Nat) (s : State) : (draw k s).teLog2n = s.teLog2n := rfl
@[simp] theorem draw_teIncnt (k : Nat) (s : State) : (draw k s).teIncnt = s.teIncnt := rfl
@[simp] theorem draw_tdN (k : Nat) (s : State) : (draw k s).tdN = s.tdN := rfl
@[simp] theorem draw_tdIncnt (k : Nat) (s : State) : (draw k s).tdIncnt = s.tdIncnt := rfl
@[simp] theorem draw_tdFs (k : Nat) (s : State) : (draw k s).tdFs = s.tdFs := rfl
@[simp] theorem draw_tdFrame (k : Nat) (s : State) : (draw k s).tdFrame = s.tdFrame := rfl
@[simp] theorem draw_tdLo (k : Nat) (s : State) : (draw k s).tdLo = s.tdLo := rfl
@[simp] theorem draw_tdHi (k : Nat) (s : State) : (draw k s).tdHi = s.tdHi := rfl
@[simp] theorem draw_tdWin (k : Nat) (s : State) : (draw k s).tdWin = s.tdWin := rfl
@[simp] theorem draw_tw (k : Nat) (s : State) : (draw k s).tw = s.tw := rfl
@[simp] theorem draw_br (k : Nat) (s : State) : (draw k s).br = s.br := rfl
@[simp] theorem draw_win (k : Nat) (s : State) : (draw k s).win = s.win := rfl
@[simp] theorem draw_inp (k : Nat) (s : State) : (draw k s).inp = s.inp := rfl
@[simp] theorem draw_work (k : Nat) (s : State) : (draw k s).work = s.work := rfl
@[simp] theorem draw_out (k : Nat) (s : State) : (draw k s).out = s.out := rfl
@[simp] theorem draw_dwin (k : Nat) (s : State) : (draw k s).dwin = s.dwin := rfl
@[simp] theorem draw_dv (k : Nat) (s : State) : (draw k s).dv = s.dv := rfl
@[simp] theorem draw_top (k : Nat) (s : State) : (draw k s).top = s.top := rfl
@[simp] theorem draw_b (k : Nat) (s : State) : (draw k s).b = s.b := rfl
@[simp] theorem draw_sre (k : Nat) (s : State) : (draw k s).sre = s.sre := rfl
@[simp] theorem draw_sim (k : Nat) (s : State) : (draw k s).sim = s.sim := rfl
@[simp] theorem draw_pres (k : Nat) (s : State) : (draw k s).pres = s.pres := rfl
@[simp] theorem draw_pslope (k : Nat) (s : State) : (draw k s).pslope = s.pslope := rfl
@[simp] theorem draw_topcnt (k : Nat) (s : State) : (draw k s).topcnt = s.topcnt := rfl
@[simp] theorem draw_cur (k : Nat) (s : State) : (draw k s).cur = s.cur := rfl
@[simp] theorem draw_pending (k : Nat) (s : State) : (draw k s).pending = s.pending := rfl
@[simp] theorem draw_rst (k : Nat) (s : State) : (draw k s).rst = s.rst := rfl
@[simp] theorem draw_rsp (k : Nat) (s : State) : (draw k s).rsp = s.rsp := rfl
@[simp] theorem draw_nanDraws (k : Nat) (s : State) : (draw k s).nanDraws = s.nanDraws + k := rfl

/-! ## `answer` -/

@[simp] theorem answer_build (v : Word) (s : State) : (answer v s).build = s.build := rfl
@[simp] theorem answer_busy (v : Word) (s : State) : (answer v s).busy = s.busy := rfl
@[simp] theorem answer_unit (v : Word) (s : State) : (answer v s).unit = s.unit := rfl
@[simp] theorem answer_teValid (v : Word) (s : State) : (answer v s).teValid = s.teValid := rfl
@[simp] theorem answer_workValid (v : Word) (s : State) : (answer v s).workValid = s.workValid := rfl
@[simp] theorem answer_outValid (v : Word) (s : State) : (answer v s).outValid = s.outValid := rfl
@[simp] theorem answer_tdValid (v : Word) (s : State) : (answer v s).tdValid = s.tdValid := rfl
@[simp] theorem answer_onsValid (v : Word) (s : State) : (answer v s).onsValid = s.onsValid := rfl
@[simp] theorem answer_topValid (v : Word) (s : State) : (answer v s).topValid = s.topValid := rfl
@[simp] theorem answer_opc (v : Word) (s : State) : (answer v s).opc = s.opc := rfl
@[simp] theorem answer_err (v : Word) (s : State) : (answer v s).err = s.err := rfl
@[simp] theorem answer_ecode (v : Word) (s : State) : (answer v s).ecode = s.ecode := rfl
@[simp] theorem answer_einfo (v : Word) (s : State) : (answer v s).einfo = s.einfo := rfl
@[simp] theorem answer_ie (v : Word) (s : State) : (answer v s).ie = s.ie := rfl
@[simp] theorem answer_ipDone (v : Word) (s : State) : (answer v s).ipDone = s.ipDone := rfl
@[simp] theorem answer_seq (v : Word) (s : State) : (answer v s).seq = s.seq := rfl
@[simp] theorem answer_teN (v : Word) (s : State) : (answer v s).teN = s.teN := rfl
@[simp] theorem answer_teLog2n (v : Word) (s : State) : (answer v s).teLog2n = s.teLog2n := rfl
@[simp] theorem answer_teIncnt (v : Word) (s : State) : (answer v s).teIncnt = s.teIncnt := rfl
@[simp] theorem answer_tdN (v : Word) (s : State) : (answer v s).tdN = s.tdN := rfl
@[simp] theorem answer_tdIncnt (v : Word) (s : State) : (answer v s).tdIncnt = s.tdIncnt := rfl
@[simp] theorem answer_tdFs (v : Word) (s : State) : (answer v s).tdFs = s.tdFs := rfl
@[simp] theorem answer_tdFrame (v : Word) (s : State) : (answer v s).tdFrame = s.tdFrame := rfl
@[simp] theorem answer_tdLo (v : Word) (s : State) : (answer v s).tdLo = s.tdLo := rfl
@[simp] theorem answer_tdHi (v : Word) (s : State) : (answer v s).tdHi = s.tdHi := rfl
@[simp] theorem answer_tdWin (v : Word) (s : State) : (answer v s).tdWin = s.tdWin := rfl
@[simp] theorem answer_tw (v : Word) (s : State) : (answer v s).tw = s.tw := rfl
@[simp] theorem answer_br (v : Word) (s : State) : (answer v s).br = s.br := rfl
@[simp] theorem answer_win (v : Word) (s : State) : (answer v s).win = s.win := rfl
@[simp] theorem answer_inp (v : Word) (s : State) : (answer v s).inp = s.inp := rfl
@[simp] theorem answer_work (v : Word) (s : State) : (answer v s).work = s.work := rfl
@[simp] theorem answer_out (v : Word) (s : State) : (answer v s).out = s.out := rfl
@[simp] theorem answer_dwin (v : Word) (s : State) : (answer v s).dwin = s.dwin := rfl
@[simp] theorem answer_dv (v : Word) (s : State) : (answer v s).dv = s.dv := rfl
@[simp] theorem answer_top (v : Word) (s : State) : (answer v s).top = s.top := rfl
@[simp] theorem answer_b (v : Word) (s : State) : (answer v s).b = s.b := rfl
@[simp] theorem answer_sre (v : Word) (s : State) : (answer v s).sre = s.sre := rfl
@[simp] theorem answer_sim (v : Word) (s : State) : (answer v s).sim = s.sim := rfl
@[simp] theorem answer_pres (v : Word) (s : State) : (answer v s).pres = s.pres := rfl
@[simp] theorem answer_pslope (v : Word) (s : State) : (answer v s).pslope = s.pslope := rfl
@[simp] theorem answer_topcnt (v : Word) (s : State) : (answer v s).topcnt = s.topcnt := rfl
@[simp] theorem answer_cur (v : Word) (s : State) : (answer v s).cur = s.cur := rfl
@[simp] theorem answer_pending (v : Word) (s : State) : (answer v s).pending = s.pending := rfl
@[simp] theorem answer_rst (v : Word) (s : State) : (answer v s).rst = s.rst := rfl
@[simp] theorem answer_rsp (v : Word) (s : State) : (answer v s).rsp = .read v := rfl
@[simp] theorem answer_nanDraws (v : Word) (s : State) : (answer v s).nanDraws = s.nanDraws := rfl

/-! ## `takeTurn` -/

@[simp] theorem takeTurn_build (es : List Event) (s : State) : (takeTurn es s).build = s.build := rfl
@[simp] theorem takeTurn_busy (es : List Event) (s : State) : (takeTurn es s).busy = s.busy := rfl
@[simp] theorem takeTurn_unit (es : List Event) (s : State) : (takeTurn es s).unit = s.unit := rfl
@[simp] theorem takeTurn_teValid (es : List Event) (s : State) : (takeTurn es s).teValid = s.teValid := rfl
@[simp] theorem takeTurn_workValid (es : List Event) (s : State) : (takeTurn es s).workValid = s.workValid := rfl
@[simp] theorem takeTurn_outValid (es : List Event) (s : State) : (takeTurn es s).outValid = s.outValid := rfl
@[simp] theorem takeTurn_tdValid (es : List Event) (s : State) : (takeTurn es s).tdValid = s.tdValid := rfl
@[simp] theorem takeTurn_onsValid (es : List Event) (s : State) : (takeTurn es s).onsValid = s.onsValid := rfl
@[simp] theorem takeTurn_topValid (es : List Event) (s : State) : (takeTurn es s).topValid = s.topValid := rfl
@[simp] theorem takeTurn_opc (es : List Event) (s : State) : (takeTurn es s).opc = s.opc := rfl
@[simp] theorem takeTurn_err (es : List Event) (s : State) : (takeTurn es s).err = s.err := rfl
@[simp] theorem takeTurn_ecode (es : List Event) (s : State) : (takeTurn es s).ecode = s.ecode := rfl
@[simp] theorem takeTurn_einfo (es : List Event) (s : State) : (takeTurn es s).einfo = s.einfo := rfl
@[simp] theorem takeTurn_ie (es : List Event) (s : State) : (takeTurn es s).ie = s.ie := rfl
@[simp] theorem takeTurn_ipDone (es : List Event) (s : State) : (takeTurn es s).ipDone = s.ipDone := rfl
@[simp] theorem takeTurn_seq (es : List Event) (s : State) : (takeTurn es s).seq = s.seq := rfl
@[simp] theorem takeTurn_teN (es : List Event) (s : State) : (takeTurn es s).teN = s.teN := rfl
@[simp] theorem takeTurn_teLog2n (es : List Event) (s : State) : (takeTurn es s).teLog2n = s.teLog2n := rfl
@[simp] theorem takeTurn_teIncnt (es : List Event) (s : State) : (takeTurn es s).teIncnt = s.teIncnt := rfl
@[simp] theorem takeTurn_tdN (es : List Event) (s : State) : (takeTurn es s).tdN = s.tdN := rfl
@[simp] theorem takeTurn_tdIncnt (es : List Event) (s : State) : (takeTurn es s).tdIncnt = s.tdIncnt := rfl
@[simp] theorem takeTurn_tdFs (es : List Event) (s : State) : (takeTurn es s).tdFs = s.tdFs := rfl
@[simp] theorem takeTurn_tdFrame (es : List Event) (s : State) : (takeTurn es s).tdFrame = s.tdFrame := rfl
@[simp] theorem takeTurn_tdLo (es : List Event) (s : State) : (takeTurn es s).tdLo = s.tdLo := rfl
@[simp] theorem takeTurn_tdHi (es : List Event) (s : State) : (takeTurn es s).tdHi = s.tdHi := rfl
@[simp] theorem takeTurn_tdWin (es : List Event) (s : State) : (takeTurn es s).tdWin = s.tdWin := rfl
@[simp] theorem takeTurn_tw (es : List Event) (s : State) : (takeTurn es s).tw = s.tw := rfl
@[simp] theorem takeTurn_br (es : List Event) (s : State) : (takeTurn es s).br = s.br := rfl
@[simp] theorem takeTurn_win (es : List Event) (s : State) : (takeTurn es s).win = s.win := rfl
@[simp] theorem takeTurn_inp (es : List Event) (s : State) : (takeTurn es s).inp = s.inp := rfl
@[simp] theorem takeTurn_work (es : List Event) (s : State) : (takeTurn es s).work = s.work := rfl
@[simp] theorem takeTurn_out (es : List Event) (s : State) : (takeTurn es s).out = s.out := rfl
@[simp] theorem takeTurn_dwin (es : List Event) (s : State) : (takeTurn es s).dwin = s.dwin := rfl
@[simp] theorem takeTurn_dv (es : List Event) (s : State) : (takeTurn es s).dv = s.dv := rfl
@[simp] theorem takeTurn_top (es : List Event) (s : State) : (takeTurn es s).top = s.top := rfl
@[simp] theorem takeTurn_b (es : List Event) (s : State) : (takeTurn es s).b = s.b := rfl
@[simp] theorem takeTurn_sre (es : List Event) (s : State) : (takeTurn es s).sre = s.sre := rfl
@[simp] theorem takeTurn_sim (es : List Event) (s : State) : (takeTurn es s).sim = s.sim := rfl
@[simp] theorem takeTurn_pres (es : List Event) (s : State) : (takeTurn es s).pres = s.pres := rfl
@[simp] theorem takeTurn_pslope (es : List Event) (s : State) : (takeTurn es s).pslope = s.pslope := rfl
@[simp] theorem takeTurn_topcnt (es : List Event) (s : State) : (takeTurn es s).topcnt = s.topcnt := rfl
@[simp] theorem takeTurn_cur (es : List Event) (s : State) : (takeTurn es s).cur = s.cur := rfl
@[simp] theorem takeTurn_pending (es : List Event) (s : State) : (takeTurn es s).pending = es := rfl
@[simp] theorem takeTurn_rst (es : List Event) (s : State) : (takeTurn es s).rst = s.rst := rfl
@[simp] theorem takeTurn_rsp (es : List Event) (s : State) : (takeTurn es s).rsp = .none := rfl
@[simp] theorem takeTurn_nanDraws (es : List Event) (s : State) : (takeTurn es s).nanDraws = s.nanDraws := rfl

/-! ## `softReset` -/

@[simp] theorem softReset_build (s : State) : (softReset s).build = s.build := rfl
@[simp] theorem softReset_busy (s : State) : (softReset s).busy = false := rfl
@[simp] theorem softReset_unit (s : State) : (softReset s).unit = false := rfl
@[simp] theorem softReset_teValid (s : State) : (softReset s).teValid = false := rfl
@[simp] theorem softReset_workValid (s : State) : (softReset s).workValid = false := rfl
@[simp] theorem softReset_outValid (s : State) : (softReset s).outValid = false := rfl
@[simp] theorem softReset_tdValid (s : State) : (softReset s).tdValid = false := rfl
@[simp] theorem softReset_onsValid (s : State) : (softReset s).onsValid = false := rfl
@[simp] theorem softReset_topValid (s : State) : (softReset s).topValid = false := rfl
@[simp] theorem softReset_opc (s : State) : (softReset s).opc = 0 := rfl
@[simp] theorem softReset_err (s : State) : (softReset s).err = 0 := rfl
@[simp] theorem softReset_ecode (s : State) : (softReset s).ecode = 0 := rfl
@[simp] theorem softReset_einfo (s : State) : (softReset s).einfo = 0 := rfl
@[simp] theorem softReset_ie (s : State) : (softReset s).ie = 0 := rfl
@[simp] theorem softReset_ipDone (s : State) : (softReset s).ipDone = false := rfl
@[simp] theorem softReset_seq (s : State) : (softReset s).seq = 0 := rfl
@[simp] theorem softReset_teN (s : State) : (softReset s).teN = 0 := rfl
@[simp] theorem softReset_teLog2n (s : State) : (softReset s).teLog2n = 0 := rfl
@[simp] theorem softReset_teIncnt (s : State) : (softReset s).teIncnt = 0 := rfl
@[simp] theorem softReset_tdN (s : State) : (softReset s).tdN = 0 := rfl
@[simp] theorem softReset_tdIncnt (s : State) : (softReset s).tdIncnt = 0 := rfl
@[simp] theorem softReset_tdFs (s : State) : (softReset s).tdFs = 0 := rfl
@[simp] theorem softReset_tdFrame (s : State) : (softReset s).tdFrame = 0 := rfl
@[simp] theorem softReset_tdLo (s : State) : (softReset s).tdLo = 0 := rfl
@[simp] theorem softReset_tdHi (s : State) : (softReset s).tdHi = 0 := rfl
@[simp] theorem softReset_tdWin (s : State) : (softReset s).tdWin = true := rfl
@[simp] theorem softReset_tw (s : State) : (softReset s).tw = s.tw := rfl
@[simp] theorem softReset_br (s : State) : (softReset s).br = s.br := rfl
@[simp] theorem softReset_win (s : State) : (softReset s).win = s.win := rfl
@[simp] theorem softReset_inp (s : State) : (softReset s).inp = s.inp := rfl
@[simp] theorem softReset_work (s : State) : (softReset s).work = s.work := rfl
@[simp] theorem softReset_out (s : State) : (softReset s).out = s.out := rfl
@[simp] theorem softReset_dwin (s : State) : (softReset s).dwin = s.dwin := rfl
@[simp] theorem softReset_dv (s : State) : (softReset s).dv = s.dv := rfl
@[simp] theorem softReset_top (s : State) : (softReset s).top = s.top := rfl
@[simp] theorem softReset_b (s : State) : (softReset s).b = 0 := rfl
@[simp] theorem softReset_sre (s : State) : (softReset s).sre = 0 := rfl
@[simp] theorem softReset_sim (s : State) : (softReset s).sim = 0 := rfl
@[simp] theorem softReset_pres (s : State) : (softReset s).pres = 0 := rfl
@[simp] theorem softReset_pslope (s : State) : (softReset s).pslope = 0 := rfl
@[simp] theorem softReset_topcnt (s : State) : (softReset s).topcnt = 0 := rfl
@[simp] theorem softReset_cur (s : State) : (softReset s).cur = 0 := rfl
@[simp] theorem softReset_pending (s : State) : (softReset s).pending = s.pending := rfl
@[simp] theorem softReset_rst (s : State) : (softReset s).rst = s.rst := rfl
@[simp] theorem softReset_rsp (s : State) : (softReset s).rsp = s.rsp := rfl
@[simp] theorem softReset_nanDraws (s : State) : (softReset s).nanDraws = s.nanDraws := rfl

/-! ## `hardReset` -/

@[simp] theorem hardReset_build (s : State) : (hardReset s).build = s.build := rfl
@[simp] theorem hardReset_busy (s : State) : (hardReset s).busy = false := rfl
@[simp] theorem hardReset_unit (s : State) : (hardReset s).unit = false := rfl
@[simp] theorem hardReset_teValid (s : State) : (hardReset s).teValid = false := rfl
@[simp] theorem hardReset_workValid (s : State) : (hardReset s).workValid = false := rfl
@[simp] theorem hardReset_outValid (s : State) : (hardReset s).outValid = false := rfl
@[simp] theorem hardReset_tdValid (s : State) : (hardReset s).tdValid = false := rfl
@[simp] theorem hardReset_onsValid (s : State) : (hardReset s).onsValid = false := rfl
@[simp] theorem hardReset_topValid (s : State) : (hardReset s).topValid = false := rfl
@[simp] theorem hardReset_opc (s : State) : (hardReset s).opc = 0 := rfl
@[simp] theorem hardReset_err (s : State) : (hardReset s).err = 0 := rfl
@[simp] theorem hardReset_ecode (s : State) : (hardReset s).ecode = 0 := rfl
@[simp] theorem hardReset_einfo (s : State) : (hardReset s).einfo = 0 := rfl
@[simp] theorem hardReset_ie (s : State) : (hardReset s).ie = 0 := rfl
@[simp] theorem hardReset_ipDone (s : State) : (hardReset s).ipDone = false := rfl
@[simp] theorem hardReset_seq (s : State) : (hardReset s).seq = 0 := rfl
@[simp] theorem hardReset_teN (s : State) : (hardReset s).teN = 0 := rfl
@[simp] theorem hardReset_teLog2n (s : State) : (hardReset s).teLog2n = 0 := rfl
@[simp] theorem hardReset_teIncnt (s : State) : (hardReset s).teIncnt = 0 := rfl
@[simp] theorem hardReset_tdN (s : State) : (hardReset s).tdN = 0 := rfl
@[simp] theorem hardReset_tdIncnt (s : State) : (hardReset s).tdIncnt = 0 := rfl
@[simp] theorem hardReset_tdFs (s : State) : (hardReset s).tdFs = 0 := rfl
@[simp] theorem hardReset_tdFrame (s : State) : (hardReset s).tdFrame = 0 := rfl
@[simp] theorem hardReset_tdLo (s : State) : (hardReset s).tdLo = 0 := rfl
@[simp] theorem hardReset_tdHi (s : State) : (hardReset s).tdHi = 0 := rfl
@[simp] theorem hardReset_tdWin (s : State) : (hardReset s).tdWin = true := rfl
@[simp] theorem hardReset_tw (s : State) : (hardReset s).tw = [] := rfl
@[simp] theorem hardReset_br (s : State) : (hardReset s).br = [] := rfl
@[simp] theorem hardReset_win (s : State) : (hardReset s).win = [] := rfl
@[simp] theorem hardReset_inp (s : State) : (hardReset s).inp = [] := rfl
@[simp] theorem hardReset_work (s : State) : (hardReset s).work = [] := rfl
@[simp] theorem hardReset_out (s : State) : (hardReset s).out = [] := rfl
@[simp] theorem hardReset_dwin (s : State) : (hardReset s).dwin = [] := rfl
@[simp] theorem hardReset_dv (s : State) : (hardReset s).dv = [] := rfl
@[simp] theorem hardReset_top (s : State) : (hardReset s).top = [] := rfl
@[simp] theorem hardReset_b (s : State) : (hardReset s).b = 0 := rfl
@[simp] theorem hardReset_sre (s : State) : (hardReset s).sre = 0 := rfl
@[simp] theorem hardReset_sim (s : State) : (hardReset s).sim = 0 := rfl
@[simp] theorem hardReset_pres (s : State) : (hardReset s).pres = 0 := rfl
@[simp] theorem hardReset_pslope (s : State) : (hardReset s).pslope = 0 := rfl
@[simp] theorem hardReset_topcnt (s : State) : (hardReset s).topcnt = 0 := rfl
@[simp] theorem hardReset_cur (s : State) : (hardReset s).cur = 0 := rfl
@[simp] theorem hardReset_pending (s : State) : (hardReset s).pending = s.pending := rfl
@[simp] theorem hardReset_rst (s : State) : (hardReset s).rst = s.rst := rfl
@[simp] theorem hardReset_rsp (s : State) : (hardReset s).rsp = s.rsp := rfl
@[simp] theorem hardReset_nanDraws (s : State) : (hardReset s).nanDraws = s.nanDraws := rfl

end Sys2Proof.Machine
end

