-- ==== Sys2Proof/Laws/Ops.lean ====
section
/-! SUPPORT. For each shared operation, one lemma that says what it can do: a proof cites it and does not unfold the
operation. -/

namespace Sys2Proof.Machine

/-! ## Answers that are not stops -/

theorem bind_ok_iff {α β : Type} {x : Except Fault α} {g : α → Except Fault β} {b : β} :
    (x >>= g) = .ok b ↔ ∃ a, x = .ok a ∧ g a = .ok b := by
  cases x with
  | ok a => simp [bind, Except.bind]
  | error e => simp [bind, Except.bind]

theorem ofExcept_next_iff {r : Except Fault State} {t : State} : ofExcept r = .next t ↔ r = .ok t := by
  cases r <;> simp [ofExcept]

@[simp] theorem ofExcept_ok (t : State) : ofExcept (.ok t) = .next t := rfl

@[simp] theorem ofExcept_error (e : Fault) : ofExcept (.error e) = .fault e := rfl

/-! ## Issue (R233) -/

theorem issue_busy {i : Instr} {c : Option ErrCode} {s : State} (h : s.busy = true) :
    issue i c s = raise .busy (encode i) s := by simp [issue, h]

theorem issue_refused {i : Instr} {e : ErrCode} {s : State} (h : s.busy = false) :
    issue i (some e) s = raise e (encode i) s := by simp [issue, h]

theorem issue_accepted {i : Instr} {s : State} (h : s.busy = false) :
    issue i none s = accept (encode i) s := by simp [issue, h]

/-- The meaning of a command other than `RESET` is its issue with its acceptance check. -/
theorem exec_eq_issue {i : Instr} (h : i ≠ .reset) (s : State) :
    exec i s = .next (issue i (acceptCheck i s) s) := by
  cases i <;> first | rfl | exact absurd rfl h

/-- Issuing a command does one of four things. -/
theorem exec_cases (i : Instr) (s : State) :
    (i = .reset ∧ exec i s = .next (softReset s)) ∨
    (i ≠ .reset ∧ s.busy = true ∧ exec i s = .next (raise .busy (encode i) s)) ∨
    (∃ e, i ≠ .reset ∧ s.busy = false ∧ acceptCheck i s = some e ∧ exec i s = .next (raise e (encode i) s)) ∨
    (i ≠ .reset ∧ s.busy = false ∧ acceptCheck i s = none ∧ exec i s = .next (accept (encode i) s)) := by
  by_cases h : i = .reset
  · exact .inl ⟨h, by subst h; rfl⟩
  · cases hb : s.busy with
    | true => exact .inr (.inl ⟨h, rfl, by rw [exec_eq_issue h, issue_busy hb]⟩)
    | false =>
      cases hc : acceptCheck i s with
      | none => exact .inr (.inr (.inr ⟨h, rfl, rfl, by rw [exec_eq_issue h, hc, issue_accepted hb]⟩))
      | some e => exact .inr (.inr (.inl ⟨e, h, rfl, rfl, by rw [exec_eq_issue h, hc, issue_refused hb]⟩))

/-! ## Micro-operations -/

theorem doWld_ok {i : Nat} {s t : State} (h : doWld i s = .ok t) :
    ∃ r x w, memRead s.br i = some r ∧ memRead s.inp r = some x ∧ memRead s.win (foldIdx r s.teN) = some w ∧
      t = { s with
        work := memWrite s.work i { re := fmul s.build.flen s.nanDraws x w, im := zeroT s.build.flen false }
        nanDraws := s.nanDraws + 1 } := by
  simp only [doWld, bind_ok_iff, readElem_ok_iff] at h
  obtain ⟨r, hr, x, hx, w, hw, h⟩ := h
  exact ⟨r, x, w, hr, hx, hw, (Except.ok.inj h).symm⟩

theorem doWld_of_reads {i r : Nat} {x w : T} {s : State} (hr : memRead s.br i = some r)
    (hx : memRead s.inp r = some x) (hw : memRead s.win (foldIdx r s.teN) = some w) :
    doWld i s = .ok { s with
      work := memWrite s.work i { re := fmul s.build.flen s.nanDraws x w, im := zeroT s.build.flen false }
      nanDraws := s.nanDraws + 1 } := by
  simp only [doWld, readElem_of_read hr, bind, Except.bind, readElem_of_read hx, readElem_of_read hw]
  rfl

theorem doBfly_ok {k q : Nat} {s t : State} (h : doBfly k q s = .ok t) :
    ∃ w u l, memRead s.tw (bflyTwidx s.teN k q) = some w ∧ memRead s.work (bflyUpper k q) = some u ∧
      memRead s.work (bflyLower k q) = some l ∧
      t = { s with
        work := memWrite
          (memWrite s.work (bflyUpper k q)
            (csub s.build.flen (s.nanDraws + 6) l (cmul s.build.flen s.nanDraws w u)))
          (bflyLower k q) (cadd s.build.flen (s.nanDraws + 8) l (cmul s.build.flen s.nanDraws w u))
        nanDraws := s.nanDraws + 10 } := by
  simp only [doBfly, bind_ok_iff, readElem_ok_iff] at h
  obtain ⟨w, hw, u, hu, l, hl, h⟩ := h
  exact ⟨w, u, l, hw, hu, hl, (Except.ok.inj h).symm⟩

theorem doBfly_of_reads {k q : Nat} {w u l : Cplx} {s : State} (hw : memRead s.tw (bflyTwidx s.teN k q) = some w)
    (hu : memRead s.work (bflyUpper k q) = some u) (hl : memRead s.work (bflyLower k q) = some l) :
    doBfly k q s = .ok { s with
      work := memWrite
        (memWrite s.work (bflyUpper k q)
          (csub s.build.flen (s.nanDraws + 6) l (cmul s.build.flen s.nanDraws w u)))
        (bflyLower k q) (cadd s.build.flen (s.nanDraws + 8) l (cmul s.build.flen s.nanDraws w u))
      nanDraws := s.nanDraws + 10 } := by
  simp only [doBfly, readElem_of_read hw, readElem_of_read hu, readElem_of_read hl]
  rfl

theorem doMagk_ok {k : Nat} {s t : State} (h : doMagk k s = .ok t) :
    ∃ z, memRead s.work k = some z ∧
      t = { s with out := memWrite s.out k (cabs s.build.flen s.nanDraws z), nanDraws := s.nanDraws + 4 } := by
  simp only [doMagk, bind_ok_iff, readElem_ok_iff] at h
  obtain ⟨z, hz, h⟩ := h
  exact ⟨z, hz, (Except.ok.inj h).symm⟩

theorem doMagk_of_read {k : Nat} {z : Cplx} {s : State} (hz : memRead s.work k = some z) :
    doMagk k s = .ok
      { s with out := memWrite s.out k (cabs s.build.flen s.nanDraws z), nanDraws := s.nanDraws + 4 } := by
  simp only [doMagk, readElem_of_read hz]
  rfl

theorem doOns_ok {n : Nat} {s t : State} (h : doOns n s = .ok t) :
    ∃ x y, memRead s.dv n = some x ∧ memRead s.dv (n - 1) = some y ∧
      t = { s with
        dv := memWrite s.dv n (onsmax s.build.flen (fsub s.build.flen s.nanDraws x y))
        nanDraws := s.nanDraws + 1 } := by
  simp only [doOns, bind_ok_iff, readElem_ok_iff] at h
  obtain ⟨x, hx, y, hy, h⟩ := h
  exact ⟨x, y, hx, hy, (Except.ok.inj h).symm⟩

theorem doOns_of_reads {n : Nat} {x y : T} {s : State} (hx : memRead s.dv n = some x)
    (hy : memRead s.dv (n - 1) = some y) :
    doOns n s = .ok { s with
      dv := memWrite s.dv n (onsmax s.build.flen (fsub s.build.flen s.nanDraws x y))
      nanDraws := s.nanDraws + 1 } := by
  simp only [doOns, readElem_of_read hx, readElem_of_read hy]
  rfl

theorem doCor_ok {n : Nat} {s t : State} (h : doCor n s = .ok t) :
    ∃ a, corTerm s n = .ok a ∧
      t = { s with
        sre := fadd s.build.flen (s.nanDraws + 2) s.sre
          (fmul s.build.flen (s.nanDraws + 1) a (rot s.build s.b n s.tdFs).re)
        sim := fadd s.build.flen (s.nanDraws + 4) s.sim
          (fmul s.build.flen (s.nanDraws + 3) a (rot s.build s.b n s.tdFs).im)
        nanDraws := s.nanDraws + 5 } := by
  simp only [doCor, bind_ok_iff] at h
  obtain ⟨a, ha, h⟩ := h
  exact ⟨a, ha, (Except.ok.inj h).symm⟩

theorem corTerm_of_written {s : State} {n : Nat} (hx : written s.dv n = true)
    (hw : written s.dwin (foldIdx n s.tdN) = true) :
    corTerm s n = .ok (seriesTerm s s.nanDraws n) := by
  obtain ⟨x, hx, hx'⟩ := readElem_of_written (name := .dv) hx
  obtain ⟨w, hw, hw'⟩ := readElem_of_written (name := .dwin) hw
  unfold corTerm seriesTerm
  rw [hx', hx, hw]
  cases s.tdWin
  · rfl
  · simp only [if_true, Option.getD_some, bind, Except.bind, hw']

/-! ## The ranked insertion (R205) -/

/-- The count of R205 answers when the counted entries are written, and only then. -/
theorem countNotWeaker_of_list {f : Flen} {str : T} {m : Mem TopEntry} {l : List TopEntry}
    (h : ∀ r (hr : r < l.length), memRead m r = some l[r]) :
    ∀ k, k ≤ l.length →
      countNotWeaker f str m k = .ok ((l.take k).countP fun x => !fgt f str x.str) := by
  intro k
  induction k with
  | zero => intro _; simp [countNotWeaker]
  | succ r ih =>
    intro hk
    have hr : r < l.length := hk
    rw [countNotWeaker, ih (Nat.le_of_lt hr), readElem_of_read (h r hr)]
    simp only [bind, Except.bind]
    rw [List.take_succ_eq_append_getElem hr, List.countP_append, List.countP_singleton]
    cases fgt f str l[r].str <;> simp

/-- The shift of R205 answers when the shifted entries are written; it moves entries `p .. p + k - 1` up by one and
touches nothing else but entry `p`'s old place. -/
theorem shiftTop_of_written (p : Nat) : ∀ (k : Nat) (m : Mem TopEntry),
    (∀ j, p ≤ j → j < p + k → written m j = true) →
    ∃ m', shiftTop p k m = .ok m' ∧ (Mem.wf m = true → Mem.wf m' = true) ∧
      ∀ j, memRead m' j = if p < j ∧ j ≤ p + k then memRead m (j - 1) else memRead m j := by
  intro k
  induction k with
  | zero =>
    intro m _
    refine ⟨m, rfl, id, fun j => ?_⟩
    exact (if_neg (by omega)).symm
  | succ k ih =>
    intro m h
    obtain ⟨e, he, he'⟩ := readElem_of_written (name := .top) (h (p + k) (by omega) (by omega))
    obtain ⟨m', hm', hwf, hrd⟩ := ih (memWrite m (p + k + 1) e) (by
      intro j h1 h2
      exact written_mono _ _ (h j h1 (by omega)))
    refine ⟨m', ?_, fun hw => hwf (wf_memWrite _ _ hw), ?_⟩
    · simp only [shiftTop, he', bind, Except.bind]
      exact hm'
    · intro j
      rw [hrd j]
      by_cases h1 : p < j ∧ j ≤ p + k
      · have h2 : p < j ∧ j ≤ p + (k + 1) := by omega
        rw [if_pos h1, if_pos h2, memRead_memWrite_other _ _ (by omega)]
      · rw [if_neg h1]
        by_cases h3 : j = p + k + 1
        · subst h3
          have h2 : p < p + k + 1 ∧ p + k + 1 ≤ p + (k + 1) := by omega
          rw [if_pos h2, memRead_memWrite_same]
          simp [he]
        · have h2 : ¬ (p < j ∧ j ≤ p + (k + 1)) := by omega
          rw [if_neg h2, memRead_memWrite_other _ _ h3]

/-! ## The sequencer (R234, R235) -/

/-- The sequencer's step on a latched command. -/
theorem sequencerStep_of_decode {s : State} {i : Instr} (hd : decode s.cur = .ok i) (hr : i ≠ .reset) :
    sequencerStep s = listStep i s := by
  unfold sequencerStep
  split
  · next h => rw [hd] at h; exact absurd (Except.ok.inj h) hr
  · next j _ h => rw [hd] at h; rw [Except.ok.inj h]
  · next h => rw [hd] at h; cases h

/-- What the sequencer's step can do when it goes on: a micro-operation of the list, or the completion step. -/
theorem sequencerStep_ok {s t : State} (h : sequencerStep s = .ok t) :
    ∃ i, decode s.cur = .ok i ∧ i ≠ .reset ∧
      ((s.seq < listLen i s ∧ ∃ u t', uopAt i s s.seq = some u ∧ perform u s = .ok t' ∧
          t = { t' with seq := t'.seq + 1 }) ∨
        (listLen i s ≤ s.seq ∧ t = complete i s)) := by
  cases hd : decode s.cur with
  | error e => simp [sequencerStep, hd] at h
  | ok i =>
    by_cases hr : i = .reset
    · subst hr; simp [sequencerStep, hd] at h
    · refine ⟨i, rfl, hr, ?_⟩
      rw [sequencerStep_of_decode hd hr] at h
      unfold listStep at h
      split at h
      · next hlt =>
        split at h
        · next u hu =>
          split at h
          · next t' ht' => exact .inl ⟨hlt, u, t', hu, ht', (Except.ok.inj h).symm⟩
          · cases h
        · cases h
      · next hge => exact .inr ⟨Nat.le_of_not_lt hge, (Except.ok.inj h).symm⟩

/-! ## Steps -/

theorem step_nil {s : State} (h : s.pending = []) : step s = agentTurn .sequencer (takeTurn [] s) := by
  simp [step, turn, h]

theorem step_cons {s : State} {e : Event} {rest : List Event} (h : s.pending = e :: rest) :
    step s = agentTurn e (takeTurn rest s) := by
  simp [step, turn, h]

theorem run_succ_next {k : Nat} {s t : State} (h : step s = .next t) : run (k + 1) s = run k t := by
  simp [run, h]

/-- Runs compose. -/
theorem run_add {j : Nat} : ∀ {s t : State}, run j s = .next t → ∀ k, run (j + k) s = run k t := by
  induction j with
  | zero =>
    intro s t h k
    have : s = t := by simpa [run] using h
    simp [this]
  | succ j ih =>
    intro s t h k
    cases hs : step s with
    | next u =>
      rw [run_succ_next hs] at h
      have e : j + 1 + k = (j + k) + 1 := by omega
      rw [e, run_succ_next hs, ih h]
    | fault e => simp [run, hs] at h
    | refused r => simp [run, hs] at h

end Sys2Proof.Machine
end

