-- ==== Sys2Proof/Laws/PerInstr.lean ====
section
/-! SUPPORT. The family `EncodeFields`: the two fields of the word a well-formed command assembles to (R90, R92). -/

namespace Sys2Proof.Laws.EncodeFields

/-- The opcode field holds the command's opcode and the argument field its argument, in full. -/
def Statement (i : Instr) : Prop :=
  i.wf = true → opField (encode i) = i.op ∧ (argField (encode i)).toNat = i.arg

/-- A word put together from its two fields has them as its fields. -/
theorem fields (o : BitVec 8) (a : Nat) (h : a < 2 ^ 24) :
    opField (o ++ BitVec.ofNat 24 a) = o ∧ (argField (o ++ BitVec.ofNat 24 a)).toNat = a := by
  constructor
  · unfold opField
    ext i hi
    rw [BitVec.getElem_extractLsb', BitVec.getLsbD_append]
    simp [BitVec.getLsbD_eq_getElem, hi]
  · have e : argField (o ++ BitVec.ofNat 24 a) = BitVec.ofNat 24 a := by
      unfold argField
      ext i hi
      simp only [BitVec.getElem_extractLsb', BitVec.getLsbD_append, Nat.zero_add, hi]
      simp [BitVec.getLsbD_eq_getElem, hi]
    rw [e, BitVec.toNat_ofNat, Nat.mod_eq_of_lt h]

theorem nop : Statement .nop := fun _ => fields 0x00 0 (by decide)

theorem teInit (n : Nat) : Statement (.teInit n) := fun h => fields 0x01 n (by simpa [Instr.wf] using h)

theorem teWinld : Statement .teWinld := fun _ => fields 0x02 0 (by decide)

theorem teStage (k : Nat) : Statement (.teStage k) := fun h => fields 0x03 k (by simpa [Instr.wf] using h)

theorem teMag : Statement .teMag := fun _ => fields 0x04 0 (by decide)

theorem teXform : Statement .teXform := fun _ => fields 0x05 0 (by decide)

theorem tdInit (n : Nat) : Statement (.tdInit n) := fun h => fields 0x11 n (by simpa [Instr.wf] using h)

theorem tdOnset : Statement .tdOnset := fun _ => fields 0x12 0 (by decide)

theorem tdSweep : Statement .tdSweep := fun _ => fields 0x13 0 (by decide)

theorem tdDetect : Statement .tdDetect := fun _ => fields 0x14 0 (by decide)

theorem reset : Statement .reset := fun _ => fields 0x7F 0 (by decide)

end Sys2Proof.Laws.EncodeFields
end

