-- ==== Sys2Proof/Machine/Script.lean ====
section
/-! DEFINITION. The host script syntax (R97): the lines of a test program, the transactions they stand for, and how a
script is played on the machine, where `wait` polls until the engine is idle. -/

namespace Sys2Proof.Machine

/-- The address of a register, `{0x0, index}` (R97), by the index of R23. -/
def regAddr : Reg → Addr
  | .cap => 0x00
  | .status => 0x01
  | .cmd => 0x02
  | .err => 0x03
  | .ecode => 0x04
  | .einfo => 0x05
  | .ie => 0x06
  | .ip => 0x07
  | .seq => 0x08
  | .teN => 0x10
  | .teLog2n => 0x11
  | .teIncnt => 0x12
  | .tePush => 0x13
  | .tdN => 0x18
  | .tdIncnt => 0x19
  | .tdPush => 0x1A
  | .tdFs => 0x1B
  | .tdFrame => 0x1C
  | .tdLo => 0x1D
  | .tdHi => 0x1E
  | .tdCtrl => 0x1F

/-- The number of an element memory's space, R62. -/
def spaceOf : MemName → BitVec 4
  | .tw => 0x1
  | .br => 0x2
  | .win => 0x3
  | .inp => 0x4
  | .work => 0x5
  | .out => 0x6
  | .dwin => 0x8
  | .dv => 0x9
  | .top => 0xA

/-- The address of word `idx` of an element memory, `{space number, idx}` (R97). -/
def memAddr (name : MemName) (idx : Nat) : Addr := spaceOf name ++ BitVec.ofNat 28 idx

/-- A number as a script writes it: as it stands, or `f:<decimal>`. -/
inductive ScriptNum where
  /-- a plain number, or a bit pattern -/
  | bits (v : Word)
  /-- `f:<decimal>`, for `(-1)^neg * m * 10^e`: `f:-2.5` is `dec true 25 (-1)` -/
  | dec (neg : Bool) (m : Nat) (e : Int)
deriving DecidableEq, Repr

/-- The word a script number stands for, on a build of a given `FLEN`: for `f:<decimal>` the pattern of the nearest
representable value. -/
def ScriptNum.word (f : Flen) : ScriptNum → Word
  | .bits v => v
  | .dec neg m e => decimalT f neg m e

/-- The lines of R97. -/
inductive ScriptLine where
  /-- `wr REG, v` -/
  | wr (r : Reg) (v : ScriptNum)
  /-- `rd REG` -/
  | rd (r : Reg)
  /-- `rd SPACE[idx]` -/
  | rdMem (name : MemName) (idx : Nat)
  /-- `cmd <command>` -/
  | cmd (i : Instr)
  /-- `wait` -/
  | wait
  /-- `push.te v0, v1, ...` -/
  | pushTe (vs : List ScriptNum)
  /-- `push.td v0, v1, ...` -/
  | pushTd (vs : List ScriptNum)
  /-- `run <command>`: `cmd` then `wait` -/
  | run (i : Instr)
  /-- `clrerr` -/
  | clrerr
  /-- `ack` -/
  | ack
deriving DecidableEq, Repr

/-- A write of a register. -/
def writeOf (r : Reg) (v : Word) : Event := .hostWrite (regAddr r) v

/-- The issue of a command, `wr CMD, <assembled word>` (R96, R97). -/
def cmdOf (i : Instr) : Event := writeOf .cmd ((encode i).zeroExtend 64)

/-- The primitive transactions of a line in their order, but for the polls of `wait`, whose number depends on what they
read. -/
def ScriptLine.expand (f : Flen) : ScriptLine → List Event
  | .wr r v => [writeOf r (v.word f)]
  | .rd r => [.hostRead (regAddr r)]
  | .rdMem name idx => [.hostRead (memAddr name idx)]
  | .cmd i => [cmdOf i]
  | .wait => []
  | .pushTe vs => vs.map fun v => writeOf .tePush (v.word f)
  | .pushTd vs => vs.map fun v => writeOf .tdPush (v.word f)
  | .run i => [cmdOf i]
  | .clrerr => [writeOf .err 0x000001FE]
  | .ack => [writeOf .ip 0x00000001]

/-- Does the line end by waiting until the engine is idle? -/
def ScriptLine.waits : ScriptLine → Bool
  | .wait | .run _ => true
  | .wr _ _ | .rd _ | .rdMem _ _ | .cmd _ | .pushTe _ | .pushTd _ | .clrerr | .ack => false

/-- How far a script has come. The interleaving of R12 is given as a list of gaps: how many sequencer steps come before
each transaction of the host (log 19). -/
inductive Played where
  /-- all transactions are done; the gaps that are left over -/
  | finished (gaps : List Nat) (s : State)
  /-- the gaps are used up, and the host is still polling -/
  | waiting (s : State)
  /-- the machine stopped -/
  | stopped
deriving DecidableEq, Repr

/-- Does the answer of a read of `STATUS` show `BUSY = 0`? -/
def showsIdle (s : State) : Bool :=
  match s.rsp with
  | .read v => !v.getLsbD 0
  | .none => false
  | .written => false

/-- Turns taken one after another. -/
def playTurns : List Event → State → Option State
  | [], s => some s
  | e :: es, s =>
    match step { s with pending := [e] } with
    | .next t => playTurns es t
    | .fault _ => none
    | .refused _ => none

/-- One transaction of the host, `gap` sequencer steps after the last. -/
def playAfter (gap : Nat) (e : Event) (s : State) : Option State :=
  playTurns (List.replicate gap .sequencer ++ [e]) s

/-- `wait`: repeat `rd STATUS` until bit 0 reads 0, one gap for each poll. -/
def playWait : List Nat → State → Played
  | [], s => .waiting s
  | gap :: gaps, s =>
    match playAfter gap (.hostRead (regAddr .status)) s with
    | some t => if showsIdle t then .finished gaps t else playWait gaps t
    | none => .stopped

/-- A line's transactions, then its `wait` if it has one. A transaction for which no gap is left follows at once. -/
def playLine (waits : Bool) : List Event → List Nat → State → Played
  | [], gaps, s => if waits then playWait gaps s else .finished gaps s
  | e :: es, gaps, s =>
    match playAfter (gaps.headD 0) e s with
    | some t => playLine waits es gaps.tail t
    | none => .stopped

/-- A script, line by line in its order. -/
def playScript : List ScriptLine → List Nat → State → Played
  | [], gaps, s => .finished gaps s
  | l :: ls, gaps, s =>
    match playLine l.waits (l.expand s.build.flen) gaps s with
    | .finished rest t => playScript ls rest t
    | .waiting t => .waiting t
    | .stopped => .stopped

end Sys2Proof.Machine
end

