-- ==== Sys2Proof/Laws/Script.lean ====
section
/-! SUPPORT. What playing a script can do (R97). -/

namespace Sys2Proof.Machine

/-- A `wait` that ends has read `BUSY = 0` in its last poll. -/
theorem playWait_finished {gaps rest : List Nat} {s t : State} (h : playWait gaps s = .finished rest t) :
    showsIdle t = true := by
  induction gaps generalizing s with
  | nil => simp [playWait] at h
  | cons gap gaps ih =>
    simp only [playWait] at h
    split at h
    · next u _ =>
      split at h
      · next hi =>
        obtain ⟨-, rfl⟩ := Played.finished.inj h
        exact hi
      · exact ih h
    · simp at h

/-- A line that has no `wait` never ends up polling. -/
theorem playLine_not_waiting {es : List Event} {gaps : List Nat} {s t : State} :
    playLine false es gaps s ≠ .waiting t := by
  induction es generalizing gaps s with
  | nil => simp [playLine]
  | cons e es ih =>
    simp only [playLine]
    split
    · exact ih
    · simp

end Sys2Proof.Machine
end

