-- ==== Sys2Proof/Tests/Slice0.lean ====
section
/-! SUPPORT. The model's own tests. Expected values are those of spec/95_test_vectors.md (V1 to V20, P5) or worked out
from the numbered rules by hand; each test names its source. The second half shows, for every obligation with
hypotheses, concrete states and operands that meet them. -/

namespace Sys2Proof.Tests

open Machine

/-! ## Small states -/

/-- The build of the tests: binary32, N up to 8, ND up to 8, two slots. -/
def bld : Build :=
  { flen := .w32, log2nMax := 3, log2ndMax := 3, slots := 2, peakReport := .current, num := .reference }

/-- Right after reset. -/
def fresh : State := State.resetOf bld

/-- The patterns of 1, 2, 3, 4, 0.5 and -1 (95_test_vectors.md, section 0). -/
def f1 : T := 0x3F800000
/-- 2 -/
def f2 : T := 0x40000000
/-- 3 -/
def f3 : T := 0x40400000
/-- 4 -/
def f4 : T := 0x40800000
/-- 0.5 -/
def fHalf : T := 0x3F000000
/-- -1 -/
def fNeg1 : T := 0xBF800000

/-- The transform unit of V5 after `TE.WINLD` and a second block of pushes, and a detector with a full series of four
values, the window of V3b and `FS = 4`, `LO = 1`, `HI = 6`. -/
def full : State :=
  { fresh with
    teValid := true, teN := 4, teLog2n := 2, teIncnt := 4, workValid := true
    tw := [(0, ⟨f1, 0⟩), (1, ⟨0, fNeg1⟩)]
    br := [(0, 0), (1, 2), (2, 1), (3, 3)]
    win := [(0, 0), (1, fHalf), (2, f1)]
    inp := [(0, f1), (1, f2), (2, f3), (3, f4)]
    work := [(0, ⟨0, 0⟩), (1, ⟨f3, 0⟩), (2, ⟨f1, 0⟩), (3, ⟨f2, 0⟩)]
    tdValid := true, tdN := 4, tdIncnt := 4, tdFs := f4, tdLo := 1, tdHi := 6
    dwin := [(0, 0), (1, fHalf), (2, f1)]
    dv := [(0, f3), (1, f1), (2, f4), (3, f1)] }

/-- `full` after `TD.ONSET` has completed (its series taken as it stands). -/
def onset : State := { full with onsValid := true }

/-- `full` with `TE.WINLD` running, one micro-operation done. -/
def busyWinld : State := { full with busy := true, cur := 0x02000000, opc := 0x02, seq := 1 }

/-- `full` with a block of zeros staged. -/
def zeros : State := { full with inp := [(0, 0), (1, 0), (2, 0), (3, 0)] }

/-- `s` with one turn listed. -/
def withTurn (e : Event) (s : State) : State := { s with pending := [e] }

/-- A field of the state a step goes on to. -/
def after {α : Type} (o : Host.Outcome State Fault Refusal) (g : State → α) : Option α :=
  match o with
  | .next t => some (g t)
  | .fault _ => none
  | .refused _ => none

/-- A field of the state a micro-operation leaves. -/
def done {α : Type} (r : Except Fault State) (g : State → α) : Option α :=
  match r with
  | .ok t => some (g t)
  | .error _ => none

/-- What a refusal leaves in the error registers. -/
def record (s : State) : BitVec 32 × BitVec 8 × BitVec 32 := (s.err, s.ecode, s.einfo)

/-! ## WellFormed: each check refuses an ill-formed term (R91) -/

theorem test_wf_teInit : (Instr.teInit (2 ^ 24)).wf = false ∧ (Instr.teInit (2 ^ 24 - 1)).wf = true := by decide
theorem test_wf_teStage : (Instr.teStage (2 ^ 24)).wf = false ∧ (Instr.teStage (2 ^ 24 - 1)).wf = true := by decide
theorem test_wf_tdInit : (Instr.tdInit (2 ^ 24)).wf = false ∧ (Instr.tdInit (2 ^ 24 - 1)).wf = true := by decide

/-! ## Decoding: one word per row of R92, written out from its fields (V16) -/

theorem test_decode_nop : decode 0x00000000 = .ok .nop := by decide
theorem test_decode_teInit : decode 0x01000008 = .ok (.teInit 8) := by decide
theorem test_decode_teWinld : decode 0x02000000 = .ok .teWinld := by decide
theorem test_decode_teStage : decode 0x03FFFFFF = .ok (.teStage 16777215) := by decide
theorem test_decode_teMag : decode 0x04000000 = .ok .teMag := by decide
theorem test_decode_teXform : decode 0x05000000 = .ok .teXform := by decide
theorem test_decode_tdInit : decode 0x11000010 = .ok (.tdInit 16) := by decide
theorem test_decode_tdOnset : decode 0x12000000 = .ok .tdOnset := by decide
theorem test_decode_tdSweep : decode 0x13000000 = .ok .tdSweep := by decide
theorem test_decode_tdDetect : decode 0x14000000 = .ok .tdDetect := by decide
theorem test_decode_reset : decode 0x7F000000 = .ok .reset := by decide

/-- The RESERVED words of V16, each with the name of its refusal. -/
theorem test_decode_reserved :
    decode 0x00000001 = .error (.nonzeroArgument 0x00 1) ∧ decode 0x02000001 = .error (.nonzeroArgument 0x02 1) ∧
    decode 0x05000001 = .error (.nonzeroArgument 0x05 1) ∧ decode 0x14000001 = .error (.nonzeroArgument 0x14 1) ∧
    decode 0x7F000001 = .error (.nonzeroArgument 0x7F 1) ∧ decode 0x06000000 = .error (.reservedOpcode 0x06) ∧
    decode 0x10000000 = .error (.reservedOpcode 0x10) ∧ decode 0x15000000 = .error (.reservedOpcode 0x15) ∧
    decode 0x80000000 = .error (.reservedOpcode 0x80) ∧ decode 0xFFFFFFFF = .error (.reservedOpcode 0xFF) := by decide

/-- R96: the examples of assembled words. -/
theorem test_encode :
    encode (.teInit 1024) = 0x01000400 ∧ encode (.teStage 2) = 0x03000002 ∧ encode (.tdInit 16) = 0x11000010 ∧
    encode .teXform = 0x05000000 ∧ encode .reset = 0x7F000000 := by decide

/-- R90: the bits above 31 are no part of a command. -/
theorem test_decodeTableWord : decodeTableWord 32 0x03000002 = some (.teStage 2) ∧
    decodeTableWord 32 0x06000000 = none ∧ decodeTableWord 32 (2 ^ 40 + 0x02000000) = some .teWinld := by decide

/-! ## Numbers: V17 and R116 -/

theorem test_fadd : fadd .w32 0 0x3DCCCCCD 0x3E4CCCCD = 0x3E99999A ∧ fadd .w32 0 0x4B800000 f1 = 0x4B800000 ∧
    fadd .w32 0 0x4B800000 f3 = 0x4B800002 ∧ fadd .w32 0 0 0x80000000 = 0 := by decide +kernel
theorem test_fmul : fmul .w32 0 0x3F8CCCCD 0x3F8CCCCD = 0x3F9AE148 ∧ fmul .w32 0 fNeg1 0 = 0x80000000 := by
  decide +kernel
theorem test_fdiv : fdiv .w32 0 0x40E00000 f3 = 0x40155555 ∧ fdiv .w32 0 f1 f3 = 0x3EAAAAAB := by decide +kernel
theorem test_fsub_self : fsub .w32 0 0x40155555 0x40155555 = 0 := by decide +kernel
theorem test_compare : fgt .w32 0x7FC00000 0 = false ∧ fle .w32 0x7FC00000 0 = false ∧
    fgt .w32 0 0x80000000 = false ∧ fle .w32 0x80000000 0 = true := by decide +kernel
theorem test_cvt : cvt .w32 16777215 = 0x4B7FFFFF := by decide +kernel
theorem test_cmul : cmul .w32 0 ⟨0, fNeg1⟩ ⟨f3, 0xC0800000⟩ = ⟨0xC0800000, 0xC0400000⟩ ∧
    cmul .w32 0 ⟨0x3F3504F3, 0xBF3504F3⟩ ⟨f1, f2⟩ = ⟨0x4007C3B6, 0x3F3504F3⟩ := by decide +kernel
theorem test_cabs : cabs .w32 0 ⟨f1, f1⟩ = 0x3FB504F3 ∧ cabs .w32 0 ⟨0x5F8AC723, 0⟩ = 0x7F800000 ∧
    cabs .w32 0 ⟨0x1E3CE508, 0⟩ = 0x1E3CE4E7 ∧ cabs .w32 0 ⟨0x80000000, 0⟩ = 0 := by decide +kernel
theorem test_onsmax : onsmax .w32 0xC0000000 = 0 ∧ onsmax .w32 0x80000000 = 0 ∧ onsmax .w32 0x7FC00000 = 0 ∧
    onsmax .w32 f3 = f3 := by decide +kernel
theorem test_twid : refTwid .w32 8 1 = ⟨0x3F3504F3, 0xBF3504F3⟩ ∧
    refTwid .w32 16 3 = ⟨0x3EC3EF15, 0xBF6C835E⟩ := by decide +kernel
theorem test_hann : refHann .w32 8 1 = 0x3E15F61A ∧ refHann .w32 3 1 = 0x3F400000 := by decide +kernel
theorem test_rot : refRot .w32 0x3FA00000 1 0x41800000 = ⟨0x3F61C598, 0xBEF15AEA⟩ ∧
    refRot .w32 0x40155555 1 0x41000000 = ⟨0xBE8483EC, 0xBF7746EA⟩ ∧
    refRot .w32 f4 2 0x41800000 = ⟨0xBF800000, 0⟩ := by decide +kernel
/-- R125: `b = -0` is the zero rotation. -/
theorem test_rot_negZero : refRot .w32 0x80000000 3 0x41800000 = ⟨f1, 0⟩ := by decide +kernel

/-! ## Micro-operations -/

/-- R143, V2. -/
theorem test_twgen : done (perform (.twgen 1) { fresh with cur := 0x01000008 }) (fun s => memRead s.tw 1) =
    some (some ⟨0x3F3504F3, 0xBF3504F3⟩) := by decide +kernel
/-- R144, V1. -/
theorem test_brgen : done (perform (.brgen 6) { fresh with cur := 0x01000008 }) (fun s => memRead s.br 6) =
    some (some 3) := by decide +kernel
/-- R145, V2. -/
theorem test_wingen : done (perform (.wingen 3) { fresh with cur := 0x01000008 }) (fun s => memRead s.win 3) =
    some (some 0x3F5A827A) := by decide +kernel
/-- R152, V10. -/
theorem test_dwgen : done (perform (.dwgen 2) { fresh with cur := 0x11000005 }) (fun s => memRead s.dwin 2) =
    some (some 0x3F678DDE) := by decide +kernel
/-- R162, V5: `WORK[2]` is sample 1 times one half. -/
theorem test_wld : done (perform (.wld 2) { full with work := [] }) (fun s => s.work) =
    some [(2, ⟨f1, 0⟩)] := by decide +kernel
/-- R166, V5: butterfly 1 of stage 0, pair (2, 3). -/
theorem test_bfly_stage0 : done (perform (.bfly 0 1) full) (fun s => (memRead s.work 2, memRead s.work 3)) =
    some (some ⟨f3, 0⟩, some ⟨fNeg1, 0⟩) := by decide +kernel
/-- R166, R167, V5: butterfly 1 of stage 1, lower 1, upper 3, twiddle `(+0, -1)`. -/
theorem test_bfly_stage1 :
    done (perform (.bfly 1 1) { full with work := [(1, ⟨0xC0400000, 0⟩), (3, ⟨fNeg1, 0⟩)] }) (fun s => s.work) =
      some [(1, ⟨0xC0400000, f1⟩), (3, ⟨0xC0400000, fNeg1⟩)] := by decide +kernel
/-- R170, V5. -/
theorem test_magk : done (perform (.magk 1) { full with work := [(1, ⟨0xC0400000, f1⟩)] }) (fun s => s.out) =
    some [(1, 0x404A62C2)] := by decide +kernel
/-- R192, V11: a rise is kept, a decay gives `+0`. -/
theorem test_ons : done (perform (.ons 2) full) (fun s => memRead s.dv 2) = some (some f3) ∧
    done (perform (.ons 1) full) (fun s => memRead s.dv 1) = some (some 0) := by decide +kernel
/-- R200. -/
theorem test_topclr : done (perform .topclr { full with topcnt := 2, pres := f1 }) (fun s => (s.top, s.topcnt, s.pres)) =
    some ([(0, ⟨0, 0⟩), (1, ⟨0, 0⟩)], 0, 0) := by decide +kernel
/-- R202: 7 divided by 3. -/
theorem test_cbeg : done (perform (.cbeg 7) { full with tdLo := 3, sre := f1 }) (fun s => (s.b, s.sre, s.sim)) =
    some (0x40155555, 0, 0) := by decide +kernel
/-- R203: `n = 1`, weight one half, `ROT(1, 1, 4) = (+0, -1)`, so `(0, 0) + (0, -0.5)`. -/
theorem test_cor : done (perform (.cor 1 1) { full with b := f1 }) (fun s => (s.sre, s.sim)) =
    some (0, 0xBF000000) := by decide +kernel
/-- R204, V12: the slope turns at candidate 3 and the pair of the present candidate goes in. -/
theorem test_peak : done (perform (.peak 3) { full with pres := f2, pslope := f2 }) (fun s => (s.top, s.topcnt, s.pslope)) =
    some ([(0, ⟨0, 3⟩)], 1, 0xC0000000) := by decide +kernel
/-- R204 with `PEAK_REPORT = PREVIOUS`, V12. -/
theorem test_peak_previous :
    done (perform (.peak 3)
      { full with build := { bld with peakReport := .previous }, pres := f2, pslope := f2 }) (fun s => s.top) =
      some [(0, ⟨f2, 2⟩)] := by decide +kernel
/-- R205: an equal strength goes behind; a full collection drops what is not stronger and evicts its last entry. -/
theorem test_insert :
    done (insertTop f1 7 { full with top := [(0, ⟨f1, 5⟩)], topcnt := 1 }) (fun s => s.top) =
      some [(0, ⟨f1, 5⟩), (1, ⟨f1, 7⟩)] ∧
    done (insertTop f1 9 { full with top := [(0, ⟨f2, 5⟩), (1, ⟨f1, 7⟩)], topcnt := 2 }) (fun s => s.top) =
      some [(0, ⟨f2, 5⟩), (1, ⟨f1, 7⟩)] ∧
    done (insertTop f3 9 { full with top := [(0, ⟨f2, 5⟩), (1, ⟨f1, 7⟩)], topcnt := 2 }) (fun s => s.top) =
      some [(0, ⟨f3, 9⟩), (1, ⟨f2, 5⟩)] := by decide +kernel

/-- V5b: `TE.XFORM` positions for N = 8. -/
theorem test_xform_list :
    (List.range 25).map (teXformUop { fresh with teN := 8, teLog2n := 3 }) =
      [.wld 0, .wld 1, .wld 2, .wld 3, .wld 4, .wld 5, .wld 6, .wld 7, .bfly 0 0, .bfly 0 1, .bfly 0 2, .bfly 0 3,
       .bfly 1 0, .bfly 1 1, .bfly 1 2, .bfly 1 3, .bfly 2 0, .bfly 2 1, .bfly 2 2, .bfly 2 3,
       .magk 0, .magk 1, .magk 2, .magk 3, .magk 4] := by decide
/-- V12: sweep positions for ND = 8, `LO = 1`, `HI = 6`. -/
theorem test_sweep_list :
    [0, 1, 2, 9, 10, 11, 50].map (tdSweepUop { full with tdN := 8 }) =
      [.topclr, .cbeg 1, .cor 1 0, .cor 1 7, .peak 1, .cbeg 2, .peak 5] := by decide

/-! ## One step per command: its issue, and a refusal (V19, V20, P4) -/

/-- V20: `cmd NOP` is accepted. -/
theorem test_nop : after (exec .nop fresh) (fun s => (statusWord s, s.cur)) = some (0x00000411, 0) := by decide
/-- V19: `cmd NOP` while busy. -/
theorem test_nop_busy : after (exec .nop busyWinld) record = some (0x00000004, 2, 0x00000000) := by decide
/-- P4 line 1. -/
theorem test_teInit_refused : after (exec (.teInit 6) fresh) record = some (0x00000008, 3, 0x01000006) := by
  decide +kernel
/-- R233: acceptance of the largest size of the build. -/
theorem test_teInit : after (exec (.teInit 8) fresh) (fun s => (statusWord s, s.cur)) =
    some (0x00010411, 0x01000008) := by decide +kernel
/-- R161, R164: the completion step of `TE.WINLD` (V5: STATUS 0x434 of the TE half). -/
theorem test_teWinld_completes : after (step { busyWinld with seq := 4 })
    (fun s => (s.busy, s.workValid, s.teIncnt, s.ipDone, s.seq)) = some (false, true, 0, true, 0) := by decide +kernel
/-- V19: `TE.STAGE 2` with N = 4. -/
theorem test_teStage_refused : after (exec (.teStage 2) full) record = some (0x00000100, 8, 0x03000002) := by decide
/-- V19: `TE.STAGE 0` with `WORK_VALID = 0`. -/
theorem test_teStage_noWork : after (exec (.teStage 0) { full with workValid := false }) record =
    some (0x00000020, 5, 0x03000000) := by decide
/-- R169: `TE.MAG` is refused without a working array, and leaves `OUT_VALID` when it completes. -/
theorem test_teMag : after (exec .teMag fresh) record = some (0x00000020, 5, 0x04000000) ∧
    after (step { full with busy := true, cur := 0x04000000, opc := 0x04, seq := 3 }) (fun s => s.outValid) =
      some true := by decide +kernel
/-- V19: `TE.XFORM` with three of four samples, and without a table. -/
theorem test_teXform_refused : after (exec .teXform { full with teIncnt := 3 }) record =
      some (0x00000010, 4, 0x05000000) ∧
    after (exec .teXform fresh) record = some (0x00000020, 5, 0x05000000) := by decide
/-- P5 line 5. -/
theorem test_teXform : after (exec .teXform { full with workValid := false, tdValid := false, tdIncnt := 0 })
    (fun s => (statusWord s, s.seq)) = some (0x0005040D, 0) := by decide
/-- V20: `cmd TD.INIT 8` from reset. -/
theorem test_tdInit : after (exec (.tdInit 8) fresh) (fun s => (statusWord s, s.seq)) = some (0x00110413, 0) := by decide
/-- V19: `cmd TD.INIT 0`. -/
theorem test_tdInit_refused : after (exec (.tdInit 0) fresh) record = some (0x00000008, 3, 0x11000000) := by decide
/-- V19: `TD.ONSET` on a series that is transformed already. -/
theorem test_tdOnset_refused : after (exec .tdOnset onset) record = some (0x00000020, 5, 0x12000000) := by decide
/-- R194: its completion step. -/
theorem test_tdOnset_completes :
    after (step { full with busy := true, cur := 0x12000000, opc := 0x12, unit := true, seq := 3 })
      (fun s => (s.onsValid, s.tdIncnt)) = some (true, 4) := by decide +kernel
/-- V19: `TD.SWEEP` without an onset series. -/
theorem test_tdSweep_refused : after (exec .tdSweep full) record = some (0x00000020, 5, 0x13000000) := by decide
/-- R206: its completion step, for the empty range of R199. -/
theorem test_tdSweep_completes :
    after (step { onset with busy := true, cur := 0x13000000, opc := 0x13, unit := true, seq := 1, tdHi := 1 })
      (fun s => (s.topValid, s.onsValid, s.tdIncnt)) = some (true, false, 0) := by decide +kernel
/-- V19: `TD.DETECT` with `TD_FS` zero, minus zero, infinite, negative, a NaN; and accepted with the smallest
subnormal. -/
theorem test_tdDetect_args :
    ([0, 0x80000000, 0x7F800000, 0xBF800000, 0x7FC00000, 0x00000001].map fun x =>
        after (exec .tdDetect { full with tdFs := x }) (fun s => (s.ecode, s.busy))) =
      [some (8, false), some (8, false), some (8, false), some (8, false), some (8, false), some (0, true)] := by
  decide +kernel
/-- V19: `TD.DETECT` with `TD_LO = 0`. -/
theorem test_tdDetect_lo : after (exec .tdDetect { full with tdLo := 0 }) record =
    some (0x00000100, 8, 0x14000000) := by decide +kernel
/-- P5 line 16: `RESET` while busy; the memories are kept (R301). -/
theorem test_reset : after (exec .reset busyWinld) (fun s => (statusWord s, s.ipDone, s.work == full.work)) =
    some (0x00000410, false, true) := by decide

/-! ## The port -/

/-- V18: reads inside and beyond the visible extent, here with N = 4. -/
theorem test_read_tw : after (step (withTurn (.hostRead 0x10000003) full)) (fun s => (s.rsp, s.err)) =
      some (.read 0xBF800000, 0) ∧
    after (step (withTurn (.hostRead 0x10000004) full)) (fun s => (s.rsp, record s)) =
      some (.read 0, 0x00000080, 7, 0x10000004) := by decide
/-- V18: an unmapped space and an unmapped register. -/
theorem test_read_unmapped : after (step (withTurn (.hostRead 0x70000000) full)) record =
      some (0x00000080, 7, 0x70000000) ∧
    after (step (withTurn (.hostRead 0x00000009) full)) record = some (0x00000080, 7, 0x00000009) := by decide
/-- V19: `rd OUT[0]` while busy. -/
theorem test_read_busy : after (step (withTurn (.hostRead 0x60000000) busyWinld)) record =
    some (0x00000004, 2, 0x60000000) := by decide
/-- V18: `wr STATUS, 0` and `wr` 0x40000000, also while busy (V19). -/
theorem test_write_readOnly : after (step (withTurn (.hostWrite 0x00000001 0) busyWinld)) record =
      some (0x00000080, 7, 0x00000001) ∧
    after (step (withTurn (.hostWrite 0x40000000 0) full)) (fun s => (record s, s.inp == full.inp)) =
      some ((0x00000080, 7, 0x40000000), true) := by decide
/-- R73: a push appends and moves the cursor; V19: a full buffer. -/
theorem test_push : after (step (withTurn (.hostWrite 0x13 f2) { full with teIncnt := 2 }))
      (fun s => (s.teIncnt, memRead s.inp 2)) = some (3, some f2) ∧
    after (step (withTurn (.hostWrite 0x13 f2) full)) record = some (0x00000040, 6, 0x00000013) := by decide
/-- R266: the sequence of flags and record. -/
theorem test_clear : record (clearErrors 0x20 { fresh with err := 0x22, ecode := 5, einfo := 0x05000000 }) =
      (0x02, 5, 0x05000000) ∧
    record (clearErrors 0x02 { fresh with err := 0x02, ecode := 5, einfo := 0x05000000 }) = (0, 0, 0) := by decide
/-- Section 0 of 95_test_vectors.md: the four `CAP` words. -/
theorem test_cap : capWord Config.resetBuild = 0x0000088A ∧
    capWord { Config.resetBuild with peakReport := .previous } = 0x0008088A ∧
    capWord { Config.resetBuild with slots := 3 } = 0x00000C8A ∧
    capWord { Config.resetBuild with slots := 1 } = 0x0000048A := by decide
/-- R97: `rd OUT[2]` is address 0x60000002, `TD_LO` is 0x0000001D, and `push.te 3, 5` are two writes of `TE_PUSH`. -/
theorem test_script : ScriptLine.expand .w32 (.rdMem .out 2) = [.hostRead 0x60000002] ∧
    ScriptLine.expand .w32 (.wr .tdLo (.bits 4)) = [.hostWrite 0x0000001D 4] ∧
    ScriptLine.expand .w32 (.cmd .reset) = [.hostWrite 0x00000002 0x7F000000] ∧
    ScriptLine.expand .w32 (.pushTe [.dec false 3 0, .dec false 5 0]) =
      [.hostWrite 0x13 f3, .hostWrite 0x13 0x40A00000] := by decide +kernel
/-- The patterns of V17's heading values 0.1, -2.5e-1, 1e-20, 2e19 and of 0.25 in binary64 (R97). -/
theorem test_decimal : decimalT .w32 false 1 (-1) = 0x3DCCCCCD ∧ decimalT .w32 true 25 (-2) = 0xBE800000 ∧
    decimalT .w32 false 1 (-20) = 0x1E3CE508 ∧ decimalT .w32 false 2 19 = 0x5F8AC723 ∧
    decimalT .w64 false 25 (-2) = 0x3FD0000000000000 := by decide +kernel
/-- R97: `wait` on `TE.WINLD` with three micro-operations left polls until `BUSY` reads 0, here in its third poll, and is
still polling when the gaps end before that. -/
theorem test_wait : (match playLine true [] [2, 1, 1, 7] busyWinld with
      | .finished gaps s => (gaps, s.busy, s.rsp) == ([7], false, .read 0x00000334)
      | .waiting _ => false
      | .stopped => false) = true ∧
    (match playWait [0, 2] busyWinld with
      | .waiting s => s.seq == 3
      | .finished _ _ => false
      | .stopped => false) = true := by decide +kernel
/-- R97: a script of two lines plays through; `run NOP` waits one sequencer step. -/
theorem test_playScript : (match playScript [.wr .ie (.bits 3), .run .nop] [0, 0, 1] fresh with
      | .finished _ s => (s.ie, s.ipDone, s.busy) == (3, true, false)
      | .waiting _ => false
      | .stopped => false) = true := by decide +kernel
/-- A word placed for the next step is issued by that step, as the first command after reset. -/
theorem test_withFetchWord : after (step (State.reset.withFetchWord 32 0x01000008)) (fun s => (s.cur, s.busy)) =
    some (0x01000008, true) := by decide +kernel

/-! ## Witnesses: states and operands that meet the hypotheses of the obligations -/

theorem inv_fresh : Inv fresh := by constructor <;> decide +kernel
theorem inv_full : Inv full := by constructor <;> decide +kernel
theorem inv_onset : Inv onset := by constructor <;> decide +kernel
theorem inv_busyWinld : Inv busyWinld := by constructor <;> decide +kernel
theorem inv_zeros : Inv zeros := by constructor <;> decide +kernel
theorem inv_withTurn (e : Event) {s : State} (h : Inv s) : Inv (withTurn e s) := by
  cases h
  constructor <;> assumption

theorem witness_DecodeOfEncodeIsTheCommand :
    (Instr.teInit (2 ^ 24 - 1)).wf = true ∧ (Instr.teStage 0).wf = true ∧ Instr.reset.wf = true := by decide
theorem witness_EncodeOfDecodeIsTheWord : decode 0x11000010 = .ok (.tdInit 16) := by decide
theorem witness_StepRunsTheIssuedCommand :
    (withTurn (.hostWrite 0x00000002 0x05000000) full).rst = false ∧
    (withTurn (.hostWrite 0x00000002 0x05000000) full).pending = [.hostWrite 0x00000002 0x05000000] ∧
    decode (lowWord 0x05000000) = .ok .teXform := by decide
theorem witness_ReservedWordIsRefused :
    fresh.rst = false ∧ fresh.busy = false ∧ busyWinld.rst = false ∧ busyWinld.busy = true ∧
    decode (lowWord 0x20000000) = .error (.reservedOpcode 0x20) := by decide
theorem witness_RaiseSetsOneFlagAndTheFirstRecord :
    fresh.ecode = 0 ∧ { fresh with err := 0x20, ecode := 5 }.ecode ≠ 0 := by decide
theorem witness_BusyEngineRefusesCommands : busyWinld.busy = true ∧ Instr.teMag ≠ .reset := by decide

/-- Each clause of the acceptance checks at the values where the checks turn. -/
theorem witness_AcceptanceChecksInOrder :
    full.busy = false ∧ (0x7F800000 : T).toNat < 2 ^ 32 ∧ finitePositive .w32 0x7F7FFFFF = true ∧
    finitePositive .w32 0x7F800000 = false ∧ finitePositive .w32 0x00000001 = true ∧
    ([0, 1, 2, 3, 4, 8, 16].map fun n => after (exec (.teInit n) full) (fun s => (s.ecode, s.busy))) =
      [some (3, false), some (3, false), some (0, true), some (3, false), some (0, true), some (0, true),
        some (3, false)] ∧
    ([0, 1, 2].map fun k => after (exec (.teStage k) full) (fun s => (s.ecode, s.busy))) =
      [some (0, true), some (0, true), some (8, false)] ∧
    ([0, 1, 8, 9].map fun n => after (exec (.tdInit n) full) (fun s => (s.ecode, s.busy))) =
      [some (3, false), some (0, true), some (0, true), some (3, false)] ∧
    after (exec .teWinld fresh) (fun s => s.ecode) = some 5 ∧
    after (exec .teWinld { full with teIncnt := 3 }) (fun s => s.ecode) = some 4 ∧
    after (exec .tdSweep { onset with tdLo := 0 }) (fun s => s.ecode) = some 8 ∧
    after (exec .tdSweep onset) (fun s => s.busy) = some true := by decide +kernel

theorem witness_NopOnlySetsDone : ready fresh = true ∧ busyWinld.busy = true := by decide
theorem witness_TeInitBuildsTheTables : ready full = true ∧ 1 ≤ 3 ∧ 3 ≤ full.build.log2nMax ∧
    full.build.log2nMax ≤ 23 := by decide
theorem witness_TdInitBuildsTheWindow : ready full = true ∧ 1 ≤ 8 ∧ 8 ≤ 2 ^ full.build.log2ndMax ∧
    full.build.log2ndMax ≤ 23 := by decide
/-- For the statements on `TE.WINLD`, `TE.XFORM` and the composition of R176. -/
theorem witness_WinldWindowsAndReorders :
    Inv full ∧ ready full = true ∧ full.teValid = true ∧ full.teIncnt = full.teN :=
  ⟨inv_full, by decide, by decide, by decide⟩
theorem witness_XformLeavesSpectrumAndMagnitudes :
    Inv full ∧ ready full = true ∧ full.teValid = true ∧ full.teIncnt = full.teN :=
  witness_WinldWindowsAndReorders
theorem witness_XformEqualsItsSteps :
    Inv full ∧ ready full = true ∧ full.teValid = true ∧ full.teIncnt = full.teN :=
  witness_WinldWindowsAndReorders
/-- Both ends of the stage numbers. -/
theorem witness_StageDoesEveryButterfly :
    Inv full ∧ ready full = true ∧ full.teValid = true ∧ full.workValid = true ∧ 0 < full.teLog2n ∧
      1 < full.teLog2n :=
  ⟨inv_full, by decide, by decide, by decide, by decide, by decide⟩
theorem witness_MagWritesTheMagnitudes :
    Inv full ∧ ready full = true ∧ full.teValid = true ∧ full.workValid = true :=
  ⟨inv_full, by decide, by decide, by decide⟩
theorem witness_AllZeroInputGivesAllZeroSpectrum :
    Inv zeros ∧ ready zeros = true ∧ zeros.teValid = true ∧ zeros.teIncnt = zeros.teN ∧
    (∀ i, i < zeros.teN → memRead zeros.inp i = some 0) ∧
    (∀ c ∈ zeros.win, unitBounded .w32 c.2 = true) ∧
    (∀ c ∈ zeros.tw, unitBounded .w32 c.2.re = true ∧ unitBounded .w32 c.2.im = true) :=
  ⟨inv_zeros, by decide, by decide, by decide, by decide, by decide +kernel, by decide +kernel⟩
theorem witness_OnsetDifferencesThePushedSeries :
    Inv full ∧ ready full = true ∧ full.tdValid = true ∧ full.onsValid = false ∧ full.tdIncnt = full.tdN :=
  ⟨inv_full, by decide, by decide, by decide, by decide⟩
theorem witness_SweepRanksTheCandidates :
    Inv onset ∧ ready onset = true ∧ onset.tdValid = true ∧ onset.onsValid = true ∧ onset.tdLo ≠ 0 ∧
      finitePositive onset.build.flen onset.tdFs = true :=
  ⟨inv_onset, by decide, by decide, by decide, by decide, by decide +kernel⟩
theorem witness_DetectEqualsOnsetThenSweep :
    Inv full ∧ ready full = true ∧ full.tdValid = true ∧ full.onsValid = false ∧ full.tdIncnt = full.tdN ∧
      full.tdLo ≠ 0 ∧ finitePositive full.build.flen full.tdFs = true :=
  ⟨inv_full, by decide, by decide, by decide, by decide, by decide, by decide +kernel⟩
theorem witness_BusyEngineCompletesItsList :
    Inv busyWinld ∧ busyWinld.busy = true ∧ busyWinld.rst = false ∧ busyWinld.pending = [] :=
  ⟨inv_busyWinld, by decide, by decide, by decide⟩
theorem witness_TransformListsAreInOrder : 0 < 2 ∧ full.teN = 2 * 2 := by decide
theorem witness_MicroOperationsWriteOnlyMemories : ∃ t, perform (.wld 0) full = .ok t := ⟨_, rfl⟩
theorem witness_ButterflyPairsTileTheArray : 0 < 3 ∧ 2 < 3 := by decide
/-- Butterflies 0 and 1 of stage 1 in both orders. -/
theorem witness_ButterfliesOfAStageCommute :
    (0 : Nat) ≠ 1 ∧ ∃ a b a' b' : State,
      doBfly 1 0 { full with nanDraws := 0 } = .ok a ∧ doBfly 1 1 { a with nanDraws := 10 } = .ok b ∧
      doBfly 1 1 { full with nanDraws := 10 } = .ok a' ∧ doBfly 1 0 { a' with nanDraws := 0 } = .ok b' :=
  ⟨by decide, _, _, _, _, rfl, rfl, rfl, rfl⟩
theorem witness_BitReversalIsItsOwnInverse : 0 < 2 ^ 0 ∧ 7 < 2 ^ 3 ∧ 1 ≤ 3 := by decide

/-- A full collection and one with room, both in descending order. -/
theorem witness_InsertKeepsTheStrongestInOrder :
    1 ≤ full.build.slots ∧
    (∀ r, r < 2 → memRead { full with top := [(0, ⟨f2, 5⟩), (1, ⟨f1, 7⟩)], topcnt := 2 }.top r =
      [(⟨f2, 5⟩ : TopEntry), ⟨f1, 7⟩][r]?) ∧
    full.topcnt = ([] : List TopEntry).length ∧
    isNaN .w32 f1 = false ∧ (∀ x ∈ [(⟨f2, 5⟩ : TopEntry), ⟨f1, 7⟩], isNaN .w32 x.str = false) ∧
    [(⟨f2, 5⟩ : TopEntry), ⟨f1, 7⟩].Pairwise (fun x y => fgt .w32 y.str x.str = false) := by decide +kernel

/-- A NaN in the running sum gives a NaN result, whatever the free values are. -/
theorem witness_PeakOfANanInsertsNothing :
    isNaN { full with sre := 0x7FC00000 }.build.flen
      (cabs { full with sre := 0x7FC00000 }.build.flen { full with sre := 0x7FC00000 }.nanDraws
        { re := { full with sre := 0x7FC00000 }.sre, im := { full with sre := 0x7FC00000 }.sim }) = true := by
  rw [cabs_nan_re _ (by decide +kernel), isNaN_quietNaN]

theorem witness_RegisterReadsOnlyAnswer :
    (withTurn (.hostRead 0x0000001F) full).rst = false ∧
    (withTurn (.hostRead 0x0000001F) full).pending = [.hostRead 0x0000001F] ∧
    addrSpace 0x0000001F = 0 ∧ addrSpace 0x0FFFFFFF = 0 ∧ regAt (addrIdx 0x00000020) = none ∧
    regAt (addrIdx 0x0000001F) = some .tdCtrl ∧ regAt (addrIdx 0x00000000) = some .cap ∧
    full.teN < 2 ^ 24 ∧ full.teLog2n < 2 ^ 5 ∧ full.teIncnt < 2 ^ 24 ∧ full.tdN < 2 ^ 24 ∧
    full.tdIncnt < 2 ^ 24 := by decide
/-- Inside the extent, at its end, in an unmapped space, and while busy. -/
theorem witness_MemoryReadsStayInTheVisibleExtent :
    Inv (withTurn (.hostRead 0x50000007) full) ∧ Inv (withTurn (.hostRead 0x50000007) busyWinld) ∧
    (withTurn (.hostRead 0x50000007) full).rst = false ∧
    (withTurn (.hostRead 0x50000007) full).pending = [.hostRead 0x50000007] ∧
    addrSpace 0x50000007 ≠ 0 ∧ addrIdx 0x50000007 < extent full (addrSpace 0x50000007) ∧
    extent full (addrSpace 0x50000008) ≤ addrIdx 0x50000008 ∧
    extent full (addrSpace 0x70000000) ≤ addrIdx 0x70000000 ∧ busyWinld.busy = true :=
  ⟨inv_withTurn _ inv_full, inv_withTurn _ inv_busyWinld, by decide, by decide, by decide, by decide, by decide,
    by decide, by decide⟩
theorem witness_ReadOnlyPlacesRefuseWrites :
    (withTurn (.hostWrite 0x19 0) full).rst = false ∧
    (withTurn (.hostWrite 0x19 0) full).pending = [.hostWrite 0x19 0] ∧
    addrSpace 0x10000000 ≠ 0 ∧ addrSpace 0x00000009 = 0 ∧
    regAt (addrIdx 0x00000009) = none ∧
    (0x19 : Addr) ∈ ([0x00, 0x01, 0x04, 0x05, 0x08, 0x10, 0x11, 0x12, 0x18, 0x19] : List Addr) := by decide
theorem witness_BusyEngineLocksThePort : busyWinld.rst = false ∧ busyWinld.busy = true ∧
    (withTurn (.hostWrite 0x1F 0) busyWinld).pending = [.hostWrite 0x1F 0] := by decide
/-- The last free place, the full buffer, and no capacity, for both ports. -/
theorem witness_PushAppendsAtTheCursor :
    ({ full with teIncnt := 3 }.teValid = true ∧ { full with teIncnt := 3 }.teIncnt ≠ full.teN) ∧
    full.teIncnt = full.teN ∧ fresh.teValid = false ∧
    ({ full with tdIncnt := 0 }.tdValid = true ∧ { full with tdIncnt := 0 }.tdIncnt ≠ full.tdN) ∧
    full.tdIncnt = full.tdN ∧ fresh.tdValid = false ∧ (withTurn (.hostWrite 0x1A f1) full).rst = false ∧
    (withTurn (.hostWrite 0x1A f1) full).busy = false ∧
    (withTurn (.hostWrite 0x1A f1) full).pending = [.hostWrite 0x1A f1] := by decide
theorem witness_DetectorRegistersTakeWrites : full.rst = false ∧ full.busy = false ∧
    (withTurn (.hostWrite 0x1B f4) full).pending = [.hostWrite 0x1B f4] := by decide
/-- The write that clears the last flag, and one that leaves another. -/
theorem witness_ErrWriteClearsNamedFlags :
    after (step (withTurn (.hostWrite 0x3 0x100) { fresh with err := 0x100, ecode := 8 })) record = some (0, 0, 0) ∧
    after (step (withTurn (.hostWrite 0x3 0x100) { fresh with err := 0x120, ecode := 8 })) record =
      some (0x20, 8, 0) := by decide
/-- A poll, an interrupt acknowledge and a refused command among the three sequencer steps that are left. -/
theorem witness_HostCannotDisturbARunningCommand :
    Inv busyWinld ∧ busyWinld.busy = true ∧ busyWinld.rst = false ∧ decode busyWinld.cur = .ok .teWinld ∧
    (∀ e ∈ [Event.hostRead 0x1, .sequencer, .hostWrite 0x7 1, .sequencer, .hostWrite 0x2 0x05000000, .sequencer],
      noReset e = true) ∧
    [Event.hostRead 0x1, .sequencer, .hostWrite 0x7 1, .sequencer, .hostWrite 0x2 0x05000000, .sequencer].count
      .sequencer ≤ listLen .teWinld busyWinld - busyWinld.seq :=
  ⟨inv_busyWinld, by decide, by decide, by decide, by decide, by decide⟩
/-- A push while the input is asserted, and three turns between assertion and release with a command running. -/
theorem witness_HardResetGivesTheResetState :
    { withTurn (.hostWrite 0x13 f1) full with rst := true }.rst = true ∧
    Event.hostWrite 0x13 f1 ≠ .resetAssert ∧ Event.hostWrite 0x13 f1 ≠ .resetRelease ∧
    { withTurn (.hostWrite 0x13 f1) full with rst := true }.pending = [.hostWrite 0x13 f1] ∧
    { full with rst := true }.pending = [] ∧
    (∀ e ∈ [Event.sequencer, .hostRead 0x1, .resetAssert], e ≠ .resetRelease) ∧
    { busyWinld with
      pending := [.resetAssert, .sequencer, .hostRead 0x1, .resetAssert, .resetRelease, .sequencer] }.pending =
      .resetAssert :: ([Event.sequencer, .hostRead 0x1, .resetAssert] ++ .resetRelease :: [.sequencer]) := by decide

/-- NaN, infinite, zero and negative operands. -/
theorem witness_InvalidOperationsGiveQuietNans :
    isNaN .w32 0x7F800001 = true ∧ unpack .w32 0x7F800000 = .inf false ∧ unpack .w32 0xFF800000 = .inf true ∧
    unpack .w32 0x80000000 = .fin true 0 (-149) ∧ unpack .w64 0 = .fin false 0 (-1074) ∧
    unpack .w32 0x80000001 = .fin true 1 (-149) := by decide +kernel
/-- The largest finite number and the smallest subnormal. -/
theorem witness_SumAndProductRoundToNearestEven :
    fits .w32 0x7F7FFFFF = true ∧ unpack .w32 0x7F7FFFFF = .fin false 16777215 104 ∧
    fits .w32 0x00000001 = true ∧ unpack .w32 0x00000001 = .fin false 1 (-149) := by decide +kernel
theorem witness_QuotientAndRootRoundToNearestEven :
    fits .w64 0x3FF0000000000000 = true ∧ unpack .w64 0x3FF0000000000000 = .fin false (2 ^ 52) (-52) := by
  decide +kernel
theorem witness_ZeroResultsHaveTheIeeeSign :
    fits .w32 0xBF800000 = true ∧ unpack .w32 0xBF800000 = .fin true (2 ^ 23) (-23) := by decide +kernel
theorem witness_ComparisonsFollowTheNumbers :
    isNaN .w32 0x7FC00000 = true ∧ fits .w32 f1 = true ∧ unpack .w32 f1 = .fin false (2 ^ 23) (-23) ∧
    unpack .w32 0x7F800000 = .inf false ∧ unpack .w32 0xFF800000 = .inf true ∧ isNaN .w32 f1 = false := by
  decide +kernel
theorem witness_ConversionIsExact : 16777215 < 2 ^ 24 := by decide
theorem witness_ModulusAndRectifierAreNotNegative :
    fits .w32 f3 = true ∧ fits .w32 0x80000000 = true ∧ isNaN .w32 (cabs .w32 0 ⟨f3, f4⟩) = false := by decide +kernel
theorem witness_ReferenceNumericsHaveTheNamedProperties :
    1 ≤ 8 ∧ 0 < 3 ∧ 2 * 3 < 8 ∧ 8 ≤ 2 ^ 23 ∧ unpack .w32 f1 = .fin false (2 ^ 23) (-23) ∧
    unpack .w32 0x80000000 = .fin true 0 (-149) ∧ (2 : Nat) ^ 23 ≠ 0 := by decide +kernel

theorem witness_StatusAndCapShowTheirFields : bld.wf = true := by decide
/-- The last word inside an extent, the first beyond it, and an unmapped space. -/
theorem witness_ReadsFollowTheAddressMap :
    Inv (withTurn (.hostRead 0x50000007) full) ∧ full.rst = false ∧ full.busy = false ∧
    (withTurn (.hostRead 0x50000007) full).pending = [.hostRead 0x50000007] ∧
    (0x50000007 : Addr).toNat = 0x5 * 2 ^ 28 + 7 ∧ (0x50000008 : Addr).toNat = 0x5 * 2 ^ 28 + 8 ∧
    7 < 2 * full.teN ∧ 2 * full.teN ≤ 8 ∧ (0x70000000 : Addr).toNat = 0x7 * 2 ^ 28 + 0 :=
  ⟨inv_withTurn _ inv_full, by decide, by decide, by decide, by decide, by decide, by decide, by decide, by decide⟩
theorem witness_InterruptRegistersTakeWrites :
    (withTurn (.hostWrite 0x06 3) full).rst = false ∧
    (withTurn (.hostWrite 0x06 3) full).pending = [.hostWrite 0x06 3] ∧
    (withTurn (.hostWrite 0x07 1) busyWinld).pending = [.hostWrite 0x07 1] := by decide
theorem witness_InfinitiesFollowIeee :
    unpack .w32 0xFF800000 = .inf true ∧ unpack .w32 f1 = .fin false (2 ^ 23) (-23) ∧
    unpack .w32 0x7F800000 = .inf false ∧ unpack .w32 0x80000000 = .fin true 0 (-149) := by decide +kernel
theorem witness_ResetMeetsTheInvariant : bld.wf = true ∧ Config.resetBuild.wf = true := by decide
/-- An idle state, a busy one, and the state after reset. -/
theorem witness_EveryStepGoesOnAndKeepsTheInvariant : Inv full ∧ Inv busyWinld ∧ Inv fresh :=
  ⟨inv_full, inv_busyWinld, inv_fresh⟩
theorem witness_EveryStepKeepsTheWidths : narrow busyWinld = true ∧ ∃ t, step busyWinld = .next t :=
  ⟨by decide +kernel, _, rfl⟩
theorem witness_NoStepChangesTheBuild : ∃ t, step busyWinld = .next t := ⟨_, rfl⟩

end Sys2Proof.Tests
end

section
/-! What one step of the machine can do, as one relation: every statement about all steps is a case split on it. -/

namespace Sys2Proof.Machine

/-- What a turn can make of the state `s` in which it begins (R12): one constructor for each way a step goes on, with
the guards the step has checked. -/
inductive StepEffect (s : State) : State → Prop where
  /-- nothing happens: an idle sequencer, a turn under reset, a write that names no flag -/
  | unchanged : StepEffect s s
  /-- R300, at the assertion and at the release of the reset input -/
  | hardReset (level : Bool) : StepEffect s { hardReset s with rst := level }
  /-- R241 -/
  | softReset : StepEffect s (softReset s)
  /-- R64, R67: a read that is performed -/
  | answered (v : Word) : StepEffect s (answer v s)
  /-- R64, R67: a read that is refused -/
  | readRefused (e : ErrCode) (a : Addr) : StepEffect s (refuseRead e a s)
  /-- R262: a refused write or command -/
  | raised (e : ErrCode) (info : BitVec 32) : StepEffect s (raise e info s)
  /-- R233: a command word is accepted -/
  | accepted {c : CmdWord} {i : Instr} (hd : decode c = .ok i) (hr : i ≠ .reset) (hb : s.busy = false)
      (hc : acceptCheck i s = none) : StepEffect s (accept (encode i) s)
  /-- R266: a write to `ERR` -/
  | errorsCleared (v : BitVec 32) : StepEffect s (clearErrors v s)
  /-- R29: a write to `IE` -/
  | wroteIe (v : BitVec 2) : StepEffect s { s with ie := v }
  /-- R29: a write to `IP` that clears `DONE` -/
  | clearedDone : StepEffect s { s with ipDone := false }
  /-- R73: a sample is pushed -/
  | pushedTe (v : Word) (hb : s.busy = false) (hv : s.teValid = true) (hn : s.teIncnt ≠ s.teN) :
      StepEffect s { s with inp := memWrite s.inp s.teIncnt (truncT s.build.flen v), teIncnt := s.teIncnt + 1 }
  /-- R74: a value of the series is pushed -/
  | pushedTd (v : Word) (hb : s.busy = false) (hv : s.tdValid = true) (hn : s.tdIncnt ≠ s.tdN) :
      StepEffect s { s with dv := memWrite s.dv s.tdIncnt (truncT s.build.flen v), tdIncnt := s.tdIncnt + 1 }
  /-- R35: a write to `TD_FS` -/
  | wroteFs (v : Word) (hb : s.busy = false) : StepEffect s { s with tdFs := truncT s.build.flen v }
  /-- R36: a write to `TD_FRAME` -/
  | wroteFrame (v : BitVec 32) (hb : s.busy = false) : StepEffect s { s with tdFrame := v }
  /-- R37: a write to `TD_LO` -/
  | wroteLo (v : BitVec 24) (hb : s.busy = false) : StepEffect s { s with tdLo := v }
  /-- R37: a write to `TD_HI` -/
  | wroteHi (v : BitVec 24) (hb : s.busy = false) : StepEffect s { s with tdHi := v }
  /-- R38: a write to `TD_CTRL` -/
  | wroteWin (v : Bool) (hb : s.busy = false) : StepEffect s { s with tdWin := v }
  /-- R234: the next micro-operation of the running list -/
  | performed {i : Instr} {u : MicroOp} {t : State} (hb : s.busy = true) (hd : decode s.cur = .ok i)
      (hr : i ≠ .reset) (hlt : s.seq < listLen i s) (hu : uopAt i s s.seq = some u) (ht : perform u s = .ok t) :
      StepEffect s { t with seq := t.seq + 1 }
  /-- R235: the completion step -/
  | completed {i : Instr} (hb : s.busy = true) (hd : decode s.cur = .ok i) (hr : i ≠ .reset)
      (hge : listLen i s ≤ s.seq) : StepEffect s (complete i s)

variable {s t : State}

theorem issueWord_effect {c : CmdWord} (h : issueWord c s = .next t) : StepEffect s t := by
  unfold issueWord at h
  split at h
  · next i hd =>
    obtain ⟨_, he⟩ | ⟨_, _, he⟩ | ⟨e, _, _, _, he⟩ | ⟨hr, hb, hc, he⟩ := exec_cases i s <;>
      cases he.symm.trans h
    · exact .softReset
    · exact .raised _ _
    · exact .raised _ _
    · exact .accepted hd hr hb hc
  · cases h
    split <;> exact .raised _ _

theorem tePush_effect (a : Addr) (v : Word) (hb : s.busy = false) : StepEffect s (tePush a v s) := by
  unfold tePush
  split
  · exact .raised _ _
  · next hroom =>
    rw [not_or, Bool.not_eq_false] at hroom
    exact .pushedTe v hb hroom.1 hroom.2

theorem tdPush_effect (a : Addr) (v : Word) (hb : s.busy = false) : StepEffect s (tdPush a v s) := by
  unfold tdPush
  split
  · exact .raised _ _
  · next hroom =>
    rw [not_or, Bool.not_eq_false] at hroom
    exact .pushedTd v hb hroom.1 hroom.2

/-- The lock-out of R232 comes before the register's own rule, so the locked registers are written while idle. -/
theorem writeReg_effect {r : Reg} {a : Addr} {v : Word} (hl : r.lockedWhileBusy = true → s.busy = false)
    (h : writeReg r a v s = .next t) : StepEffect s t := by
  cases r with
  | cmd => exact issueWord_effect h
  | err => cases h; exact .errorsCleared _
  | ie => cases h; exact .wroteIe _
  | ip =>
    cases h
    split
    · exact .clearedDone
    · exact .unchanged
  | tePush => cases h; exact tePush_effect a v (hl rfl)
  | tdPush => cases h; exact tdPush_effect a v (hl rfl)
  | tdFs => cases h; exact .wroteFs v (hl rfl)
  | tdFrame => cases h; exact .wroteFrame _ (hl rfl)
  | tdLo => cases h; exact .wroteLo _ (hl rfl)
  | tdHi => cases h; exact .wroteHi _ (hl rfl)
  | tdCtrl => cases h; exact .wroteWin _ (hl rfl)
  | cap | status | ecode | einfo | seq | teN | teLog2n | teIncnt | tdN | tdIncnt => cases h; exact .raised _ _

theorem hostWrite_effect {a : Addr} {v : Word} (h : hostWrite a v s = .next t) : StepEffect s t := by
  unfold hostWrite at h
  split at h
  · cases h; exact .raised _ _
  · split at h
    · cases h; exact .raised _ _
    · split at h
      · cases h; exact .raised _ _
      · split at h
        · cases h; exact .raised _ _
        · next hl =>
          refine writeReg_effect (fun hr => ?_) h
          simpa [hr] using hl

theorem hostReadMem_effect {a : Addr} (h : hostReadMem a s = .ok t) : StepEffect s t := by
  unfold hostReadMem at h
  split at h
  · cases h; exact .readRefused _ _
  · split at h
    · cases h; exact .readRefused _ _
    · split at h
      · cases h; exact .readRefused _ _
      · split at h
        · cases h; exact .answered _
        · cases h

theorem hostReadReg_effect (a : Addr) (s : State) : StepEffect s (hostReadReg a s) := by
  unfold hostReadReg
  split
  · exact .readRefused _ _
  · exact .answered _

theorem hostRead_effect {a : Addr} (h : hostRead a s = .ok t) : StepEffect s t := by
  unfold hostRead at h
  split at h
  · cases h; exact hostReadReg_effect a s
  · exact hostReadMem_effect h

theorem sequencerTurn_effect (h : sequencerTurn s = .next t) : StepEffect s t := by
  unfold sequencerTurn at h
  split at h
  · next hb =>
    obtain ⟨i, hd, hr, ⟨hlt, u, t', hu, ht, rfl⟩ | ⟨hge, rfl⟩⟩ := sequencerStep_ok (ofExcept_next_iff.1 h)
    · exact .performed hb hd hr hlt hu ht
    · exact .completed hb hd hr hge
  · cases h; exact .unchanged

/-- A turn has one of the effects on the state it begins in; a host write has it after the port has answered. -/
theorem agentTurn_effect {e : Event} (h : agentTurn e s = .next t) :
    StepEffect s t ∨ StepEffect { s with rsp := .written } t := by
  cases e with
  | resetAssert => cases h; exact .inl (.hardReset true)
  | resetRelease =>
    cases h
    split
    · exact .inl (.hardReset false)
    · exact .inl .unchanged
  | sequencer =>
    simp only [agentTurn] at h
    split at h
    · cases h; exact .inl .unchanged
    · exact .inl (sequencerTurn_effect h)
  | hostRead a =>
    simp only [agentTurn] at h
    split at h
    · cases h; exact .inl .unchanged
    · exact .inl (hostRead_effect (ofExcept_next_iff.1 h))
  | hostWrite a v =>
    simp only [agentTurn] at h
    split at h
    · cases h; exact .inl .unchanged
    · exact .inr (hostWrite_effect h)

/-- What a step can do: it takes the next turn, if one is listed, and the turn has one of the effects. -/
theorem step_effect (h : step s = .next t) :
    ∃ rest, StepEffect (takeTurn rest s) t ∨ StepEffect { takeTurn rest s with rsp := .written } t := by
  cases hp : s.pending with
  | nil => exact ⟨[], agentTurn_effect (step_nil hp ▸ h)⟩
  | cons e rest => exact ⟨rest, agentTurn_effect (step_cons hp ▸ h)⟩

/-- The way to prove that every step keeps a property: it does not look at the schedule and the port's answer, and every
effect keeps it. -/
theorem step_keeps {P : State → Prop} (hport : ∀ (s : State) es r, P s → P { s with pending := es, rsp := r })
    (heffect : ∀ s t, P s → StepEffect s t → P t) (hs : P s) (h : step s = .next t) : P t := by
  obtain ⟨rest, he | he⟩ := step_effect h
  · exact heffect _ _ (hport s rest .none hs) he
  · exact heffect _ _ (hport s rest .written hs) he

end Sys2Proof.Machine
end

section
/-! What the ranked insertion of R205 and the micro-operation `PEAK` (R204) can do. -/

namespace Sys2Proof.Machine

theorem mem_of_memRead {α : Type} {m : Mem α} {i : Nat} {v : α} (h : memRead m i = some v) : (i, v) ∈ m := by
  induction m with
  | nil => cases h
  | cons c m ih =>
    obtain ⟨k, w⟩ := c
    simp only [memRead] at h
    split at h
    · next hk => cases h; cases hk; exact List.mem_cons_self
    · exact List.mem_cons_of_mem _ (ih h)

/-- The shift of R205 brings no new entry into `TOP`. -/
theorem shiftTop_mem {p : Nat} : ∀ {k : Nat} {m m' : Mem TopEntry}, shiftTop p k m = .ok m' →
    ∀ c ∈ m', ∃ d ∈ m, c.2 = d.2 := by
  intro k
  induction k with
  | zero => intro m m' h c hc; cases h; exact ⟨c, hc, rfl⟩
  | succ k ih =>
    intro m m' h c hc
    simp only [shiftTop, bind_ok_iff, readElem_ok_iff] at h
    obtain ⟨e, he, h⟩ := h
    obtain ⟨d, hd, hcd⟩ := ih h c hc
    rcases mem_memWrite hd with rfl | hd
    · exact ⟨_, mem_of_memRead he, hcd⟩
    · exact ⟨d, hd, hcd⟩

theorem insertAmong_ok {cnt : Nat} {str : T} {cand : BitVec 24} {s t : State}
    (h : insertAmong cnt str cand s = .ok t) :
    ∃ p m, shiftTop p (cnt - p) s.top = .ok m ∧
      t = { s with top := memWrite m p { str := str, cand := cand }, topcnt := cnt + 1 } := by
  simp only [insertAmong, bind_ok_iff] at h
  obtain ⟨p, _, m, hm, h⟩ := h
  exact ⟨p, m, hm, (Except.ok.inj h).symm⟩

theorem insertAmong_frame {cnt : Nat} {str : T} {cand : BitVec 24} {s t : State}
    (h : insertAmong cnt str cand s = .ok t) :
    t = { s with top := t.top, topcnt := t.topcnt } ∧
      ∀ c ∈ t.top, c.2.str = str ∨ ∃ d ∈ s.top, c.2 = d.2 := by
  obtain ⟨p, m, hm, rfl⟩ := insertAmong_ok h
  refine ⟨rfl, fun c hc => ?_⟩
  rcases mem_memWrite hc with rfl | hc
  · exact .inl rfl
  · exact .inr (shiftTop_mem hm c hc)

/-- An insertion changes `TOP` and `TOPCNT` alone, and what stands in `TOP` after it is the inserted strength or an
entry that stood there. -/
theorem insertTop_frame {str : T} {cand : BitVec 24} {s t : State} (h : insertTop str cand s = .ok t) :
    t = { s with top := t.top, topcnt := t.topcnt } ∧
      ∀ c ∈ t.top, c.2.str = str ∨ ∃ d ∈ s.top, c.2 = d.2 := by
  unfold insertTop at h
  split at h
  · obtain ⟨e, _, h⟩ := bind_ok_iff.1 h
    split at h
    · exact insertAmong_frame h
    · cases h; exact ⟨rfl, fun c hc => .inr ⟨c, hc, rfl⟩⟩
  · exact insertAmong_frame h

theorem reportPeak_frame {i : Nat} {res : T} {s t : State} (h : reportPeak i res s = .ok t) :
    t = { s with top := t.top, topcnt := t.topcnt } ∧
      ∀ c ∈ t.top, (c.2.str = res ∨ c.2.str = s.pres) ∨ ∃ d ∈ s.top, c.2 = d.2 := by
  unfold reportPeak at h
  split at h
  · obtain ⟨ht, htop⟩ := insertTop_frame h
    exact ⟨ht, fun c hc => (htop c hc).imp_left .inl⟩
  · obtain ⟨ht, htop⟩ := insertTop_frame h
    exact ⟨ht, fun c hc => (htop c hc).imp_left .inr⟩

/-- `PEAK` changes the ranked collection, `PRES` and `PSLOPE` alone; every strength in `TOP` after it is the present
result, the previous one, or one that stood there. -/
theorem doPeak_ok {i : Nat} {s t : State} (h : doPeak i s = .ok t) :
    t = { s with
        top := t.top, topcnt := t.topcnt
        pslope := fsub s.build.flen (s.nanDraws + 4)
          (cabs s.build.flen s.nanDraws { re := s.sre, im := s.sim }) s.pres
        pres := cabs s.build.flen s.nanDraws { re := s.sre, im := s.sim }
        nanDraws := s.nanDraws + 5 } ∧
      ∀ c ∈ t.top, (c.2.str = t.pres ∨ c.2.str = s.pres) ∨ ∃ d ∈ s.top, c.2 = d.2 := by
  simp only [doPeak] at h
  split at h
  · obtain ⟨u, hu, h⟩ := bind_ok_iff.1 h
    obtain ⟨hframe, htop⟩ := reportPeak_frame hu
    cases h
    rw [hframe]
    exact ⟨rfl, htop⟩
  · cases h
    exact ⟨rfl, fun c hc => .inr ⟨c, hc, rfl⟩⟩

end Sys2Proof.Machine
end

section
/-! The build is constant (R22), and the reset state meets the invariant (R44). -/

namespace Sys2Proof.Machine

theorem perform_build {u : MicroOp} {s t : State} (h : perform u s = .ok t) : t.build = s.build := by
  cases u with
  | twgen | brgen | wingen | dwgen | topclr | cbeg => cases h; rfl
  | wld i => obtain ⟨_, _, _, _, _, _, rfl⟩ := doWld_ok h; rfl
  | bfly k q => obtain ⟨_, _, _, _, _, _, rfl⟩ := doBfly_ok h; rfl
  | magk k => obtain ⟨_, _, rfl⟩ := doMagk_ok h; rfl
  | ons n => obtain ⟨_, _, _, _, rfl⟩ := doOns_ok h; rfl
  | cor i n => obtain ⟨_, _, rfl⟩ := doCor_ok h; rfl
  | peak i => rw [(doPeak_ok h).1]

@[simp] theorem complete_build (i : Instr) (s : State) : (complete i s).build = s.build := by
  cases i <;> rfl

theorem StepEffect.build {s t : State} (h : StepEffect s t) : t.build = s.build := by
  cases h with
  | performed _ _ _ _ _ ht => exact (perform_build ht :)
  | completed => exact complete_build _ s
  | _ => rfl

/-- Settles O55: every effect a turn can have keeps the build. -/
theorem noStepChangesTheBuild : Obligations.NoStepChangesTheBuild := by
  intro s t h
  exact step_keeps (P := fun u => u.build = s.build) (fun _ _ _ hu => hu)
    (fun _ _ hu he => he.build.trans hu) rfl h

/-- Settles O52: every flag is off, every size and cursor is 0, and the engine is idle. -/
theorem resetMeetsTheInvariant : Obligations.ResetMeetsTheInvariant := by
  intro b hb
  obtain ⟨wfTw, wfBr, wfWin, wfInp, wfWork, wfOut, wfDwin, wfDv, wfTop⟩ := wf_reset b
  exact {
    build := hb
    idle := fun _ => ⟨rfl, rfl, rfl⟩
    teOff := fun _ => ⟨rfl, rfl, rfl, rfl⟩
    teOn := nofun
    teCursor := le_rfl
    tdOff := fun _ => ⟨rfl, rfl, rfl⟩
    tdOn := nofun
    tdCursor := le_rfl
    onsFull := nofun
    errBits := BitVec.zero_and
    record := ⟨fun _ => rfl, fun _ => rfl⟩
    info := fun _ => rfl
    wfTw, wfBr, wfWin, wfInp, wfWork, wfOut, wfDwin, wfDv, wfTop
    haveTw := nofun
    haveBr := nofun
    haveWin := nofun
    boundBr := nofun
    haveInp := nofun
    haveWork := nofun
    haveOut := nofun
    haveDwin := nofun
    haveDv := nofun
    haveTop := nofun
    topcnt := Nat.zero_le _
    ranked := nofun
    running := nofun }

end Sys2Proof.Machine
end

section
/-! Every primitive of 40_numerics.md answers inside `FLEN` bits, whatever its operands are (R10, R110). -/

namespace Sys2Proof.Machine

/-! ## Bits -/

theorem truncT_toNat (f : Flen) (w : T) : (truncT f w).toNat = w.toNat % 2 ^ flenBits f := by
  cases f with
  | w32 => simp [truncT, flenBits]; omega
  | w64 => simp [truncT, flenBits, Nat.mod_eq_of_lt w.isLt]

theorem fits_iff {f : Flen} {w : T} : fits f w = true ↔ w.toNat < 2 ^ flenBits f := by
  have hpos : 0 < 2 ^ flenBits f := Nat.two_pow_pos _
  rw [fits, beq_iff_eq, ← BitVec.toNat_inj, truncT_toNat]
  exact ⟨fun h => h ▸ Nat.mod_lt _ hpos, Nat.mod_eq_of_lt⟩

@[simp] theorem fits_truncT (f : Flen) (w : Word) : fits f (truncT f w) = true := by
  rw [fits_iff, truncT_toNat]
  exact Nat.mod_lt _ (Nat.two_pow_pos _)

/-- Magnitude bits leave the sign bit free. -/
theorem infPattern_lt (f : Flen) : infPattern f < 2 ^ (flenBits f - 1) := by
  cases f <;> decide

/-- A magnitude up to that of infinity, with its sign, fits. -/
theorem fits_packT {f : Flen} (neg : Bool) {mag : Nat} (h : mag ≤ infPattern f) :
    fits f (packT f neg mag) = true := by
  have hinf := infPattern_lt f
  have hsplit : 2 ^ flenBits f = 2 ^ (flenBits f - 1) + 2 ^ (flenBits f - 1) := by cases f <;> decide
  rw [fits_iff, packT, BitVec.toNat_ofNat]
  refine lt_of_le_of_lt (Nat.mod_le _ _) ?_
  cases neg <;> simp only [cond_true, cond_false] <;> omega

theorem roundMag_le (f : Flen) (m : Nat) (e : Int) (sticky : Bool) : roundMag f m e sticky ≤ infPattern f := by
  unfold roundMag
  split
  · exact Nat.zero_le _
  · exact Nat.min_le_right _ _

@[simp] theorem fits_rounded (f : Flen) (neg : Bool) (m : Nat) (e : Int) (sticky : Bool) :
    fits f (packT f neg (roundMag f m e sticky)) = true := fits_packT neg (roundMag_le f m e sticky)

@[simp] theorem fits_zeroT (f : Flen) (neg : Bool) : fits f (zeroT f neg) = true := fits_packT neg (Nat.zero_le _)

@[simp] theorem fits_infT (f : Flen) (neg : Bool) : fits f (infT f neg) = true := fits_packT neg le_rfl

/-- The bits a NaN result takes from its draw and the bits it sets are within `FLEN`. -/
@[simp] theorem fits_quietNaN (f : Flen) (d : Nat) : fits f (quietNaN f d) = true := by
  cases f with
  | w32 =>
    rw [fits_iff, quietNaN, BitVec.toNat_or, BitVec.toNat_and]
    exact Nat.or_lt_two_pow (Nat.and_lt_two_pow _ (by decide)) (by decide)
  | w64 => exact fits_iff.2 (BitVec.isLt _)

/-! ## Operations (R111 to R121, R126) -/

@[simp] theorem fits_fadd (f : Flen) (d : Nat) (a b : T) : fits f (fadd f d a b) = true := by
  unfold fadd
  split
  case h_3 => split <;> simp
  case h_6 => dsimp only; split <;> simp
  all_goals simp

@[simp] theorem fits_fsub (f : Flen) (d : Nat) (a b : T) : fits f (fsub f d a b) = true := fits_fadd f d a (negT f b)

@[simp] theorem fits_fmul (f : Flen) (d : Nat) (a b : T) : fits f (fmul f d a b) = true := by
  unfold fmul
  split
  case h_4 => split <;> simp
  case h_5 => split <;> simp
  all_goals simp

@[simp] theorem fits_fdiv (f : Flen) (d : Nat) (a b : T) : fits f (fdiv f d a b) = true := by
  unfold fdiv
  split
  case h_6 =>
    split
    · split <;> simp
    · simp
  all_goals simp

@[simp] theorem fits_fsqrt (f : Flen) (d : Nat) (a : T) : fits f (fsqrt f d a) = true := by
  unfold fsqrt
  split
  case h_4 =>
    split
    · simp
    · split <;> simp
  all_goals simp

@[simp] theorem fits_cabs (f : Flen) (d : Nat) (z : Cplx) : fits f (cabs f d z) = true := fits_fsqrt f _ _

@[simp] theorem fits_onsmax {f : Flen} {a : T} (h : fits f a = true) : fits f (onsmax f a) = true := by
  unfold onsmax
  split
  · exact h
  · exact fits_zeroT f false

theorem fitsCplx_iff {f : Flen} {z : Cplx} : fitsCplx f z = true ↔ fits f z.re = true ∧ fits f z.im = true := by
  rw [fitsCplx, Bool.and_eq_true]

@[simp] theorem fitsCplx_cadd (f : Flen) (d : Nat) (x y : Cplx) : fitsCplx f (cadd f d x y) = true :=
  fitsCplx_iff.2 ⟨fits_fadd f _ _ _, fits_fadd f _ _ _⟩

@[simp] theorem fitsCplx_csub (f : Flen) (d : Nat) (x y : Cplx) : fitsCplx f (csub f d x y) = true :=
  fitsCplx_iff.2 ⟨fits_fsub f _ _ _, fits_fsub f _ _ _⟩

/-! ## Tables (R122 to R124) -/

theorem rnEnclosed_le (f : Flen) (enc : Nat → Enclosure) (bs : List Nat) : rnEnclosed f enc bs ≤ infPattern f := by
  induction bs with
  | nil => exact Nat.zero_le _
  | cons b bs ih =>
    simp only [rnEnclosed]
    split
    · exact roundMag_le f _ _ _
    · split
      · split <;> exact roundMag_le f _ _ _
      · exact ih

theorem sinMag_le (f : Flen) (num den : Nat) : sinMag f num den ≤ infPattern f := by
  unfold sinMag
  split
  · exact Nat.zero_le _
  · exact rnEnclosed_le f _ _

theorem cosMag_le (f : Flen) (num den : Nat) : cosMag f num den ≤ infPattern f := by
  unfold cosMag
  split
  · exact roundMag_le f _ _ _
  · exact rnEnclosed_le f _ _

/-- The common form of `TWID` and `ROT` fits. -/
theorem fitsCplx_rotation (f : Flen) (p q : Nat) : fitsCplx f (rotation f p q) = true := by
  simp only [rotation]
  split
  · exact fitsCplx_iff.2 ⟨fits_packT _ (sinMag_le f _ _), fits_packT _ (cosMag_le f _ _)⟩
  · exact fitsCplx_iff.2 ⟨fits_packT _ (cosMag_le f _ _), fits_packT _ (sinMag_le f _ _)⟩

theorem fits_refHann (f : Flen) (n m : Nat) : fits f (refHann f n m) = true := by
  refine fits_packT false ?_
  split
  · split
    · exact roundMag_le f _ _ _
    · exact rnEnclosed_le f _ _
  · split
    · exact Nat.zero_le _
    · exact rnEnclosed_le f _ _

@[simp] theorem fitsCplx_twid (bld : Build) (n k : Nat) : fitsCplx bld.flen (twid bld n k) = true := by
  unfold twid
  split
  · exact fitsCplx_rotation _ k n
  · exact fitsCplx_iff.2 ⟨fits_truncT _ _, fits_truncT _ _⟩

@[simp] theorem fits_hann (bld : Build) (n m : Nat) : fits bld.flen (hann bld n m) = true := by
  unfold hann
  split
  · exact fits_refHann _ n m
  · exact fits_truncT _ _

end Sys2Proof.Machine
end

section
/-! The width invariant (R10, R23): every micro-operation and every effect of a turn keeps it. -/

namespace Sys2Proof.Machine

/-- `narrow` with its parts named. -/
structure Narrow (s : State) : Prop where
  tdFs : fits s.build.flen s.tdFs = true
  b : fits s.build.flen s.b = true
  sre : fits s.build.flen s.sre = true
  sim : fits s.build.flen s.sim = true
  pres : fits s.build.flen s.pres = true
  pslope : fits s.build.flen s.pslope = true
  tw : ∀ c ∈ s.tw, fitsCplx s.build.flen c.2 = true
  win : ∀ c ∈ s.win, fits s.build.flen c.2 = true
  inp : ∀ c ∈ s.inp, fits s.build.flen c.2 = true
  work : ∀ c ∈ s.work, fitsCplx s.build.flen c.2 = true
  out : ∀ c ∈ s.out, fits s.build.flen c.2 = true
  dwin : ∀ c ∈ s.dwin, fits s.build.flen c.2 = true
  dv : ∀ c ∈ s.dv, fits s.build.flen c.2 = true
  top : ∀ c ∈ s.top, fits s.build.flen c.2.str = true

theorem narrow_iff {s : State} : narrow s = true ↔ Narrow s := by
  simp only [narrow, Bool.and_eq_true, List.all_eq_true, and_assoc]
  constructor
  · rintro ⟨tdFs, b, sre, sim, pres, pslope, tw, win, inp, work, out, dwin, dv, top⟩
    exact { tdFs, b, sre, sim, pres, pslope, tw, win, inp, work, out, dwin, dv, top }
  · rintro ⟨tdFs, b, sre, sim, pres, pslope, tw, win, inp, work, out, dwin, dv, top⟩
    exact ⟨tdFs, b, sre, sim, pres, pslope, tw, win, inp, work, out, dwin, dv, top⟩

/-- What holds of every element of a memory holds after a write of an element it holds of. -/
theorem forall_memWrite {α : Type} {p : α → Bool} {m : Mem α} {v : α} (i : Nat) (hm : ∀ c ∈ m, p c.2 = true)
    (hv : p v = true) : ∀ c ∈ memWrite m i v, p c.2 = true := by
  intro c hc
  rcases mem_memWrite hc with rfl | hc
  · exact hv
  · exact hm c hc

theorem forall_clearTop {f : Flen} {p : TopEntry → Bool} {m : Mem TopEntry} (k : Nat) (hm : ∀ c ∈ m, p c.2 = true)
    (he : p (emptyEntry f) = true) : ∀ c ∈ clearTop f k m, p c.2 = true := by
  induction k with
  | zero => exact hm
  | succ r ih => exact forall_memWrite r ih he

section

variable {s t : State}

theorem doTopclr_narrow (hs : Narrow s) : Narrow (doTopclr s) :=
  { hs with
    pres := fits_zeroT _ false
    pslope := fits_zeroT _ false
    top := forall_clearTop (p := fun e => fits s.build.flen e.str) _ hs.top (fits_zeroT _ false) }

theorem doCbeg_narrow (i : Nat) (hs : Narrow s) : Narrow (doCbeg i s) :=
  { hs with b := fits_fdiv _ _ _ _, sre := fits_zeroT _ false, sim := fits_zeroT _ false }

theorem doPeak_narrow {i : Nat} (hs : Narrow s) (h : doPeak i s = .ok t) : Narrow t := by
  obtain ⟨hframe, htop⟩ := doPeak_ok h
  have hpres : fits s.build.flen t.pres = true := by rw [hframe]; exact fits_cabs _ _ _
  have hstr : ∀ c ∈ t.top, fits s.build.flen c.2.str = true := by
    intro c hc
    obtain (he | he) | ⟨e, hmem, he⟩ := htop c hc
    · rw [he]; exact hpres
    · rw [he]; exact hs.pres
    · rw [he]; exact hs.top e hmem
  rw [hframe]
  exact { hs with pres := fits_cabs _ _ _, pslope := fits_fsub _ _ _ _, top := hstr }

/-- Each micro-operation writes results of the numeric primitives, which fit; `PEAK` also moves entries of `TOP`. -/
theorem perform_narrow {u : MicroOp} (hs : Narrow s) (h : perform u s = .ok t) : Narrow t := by
  cases u with
  | twgen k => cases h; exact { hs with tw := forall_memWrite k hs.tw (fitsCplx_twid _ _ k) }
  | brgen i => cases h; exact { hs with }
  | wingen m => cases h; exact { hs with win := forall_memWrite m hs.win (fits_hann _ _ m) }
  | dwgen m => cases h; exact { hs with dwin := forall_memWrite m hs.dwin (fits_hann _ _ m) }
  | wld i =>
    obtain ⟨_, _, _, _, _, _, rfl⟩ := doWld_ok h
    exact { hs with work := forall_memWrite i hs.work (fitsCplx_iff.2 ⟨fits_fmul _ _ _ _, fits_zeroT _ false⟩) }
  | bfly k q =>
    obtain ⟨_, _, _, _, _, _, rfl⟩ := doBfly_ok h
    exact { hs with
      work := forall_memWrite _ (forall_memWrite _ hs.work (fitsCplx_csub _ _ _ _)) (fitsCplx_cadd _ _ _ _) }
  | magk k =>
    obtain ⟨_, _, rfl⟩ := doMagk_ok h
    exact { hs with out := forall_memWrite k hs.out (fits_cabs _ _ _) }
  | ons n =>
    obtain ⟨_, _, _, _, rfl⟩ := doOns_ok h
    exact { hs with dv := forall_memWrite n hs.dv (fits_onsmax (fits_fsub _ _ _ _)) }
  | topclr => cases h; exact doTopclr_narrow hs
  | cbeg i => cases h; exact doCbeg_narrow i hs
  | cor i n =>
    obtain ⟨_, _, rfl⟩ := doCor_ok h
    exact { hs with sre := fits_fadd _ _ _ _, sim := fits_fadd _ _ _ _ }
  | peak i => exact doPeak_narrow hs h

/-- The state of R44 carries no datum but zeros. -/
theorem resetOf_narrow (b : Build) : Narrow (State.resetOf b) := by
  have hzero : fits b.flen 0 = true := fits_iff.2 (Nat.two_pow_pos _)
  exact {
    tdFs := hzero, b := hzero, sre := hzero, sim := hzero, pres := hzero, pslope := hzero
    tw := nofun, win := nofun, inp := nofun, work := nofun, out := nofun, dwin := nofun, dv := nofun, top := nofun }

theorem softReset_narrow (hs : Narrow s) : Narrow (softReset s) :=
  { resetOf_narrow s.build with
    tw := hs.tw, win := hs.win, inp := hs.inp, work := hs.work, out := hs.out, dwin := hs.dwin, dv := hs.dv
    top := hs.top }

/-- A completion touches flags, sizes and cursors. -/
theorem complete_narrow (i : Instr) (hs : Narrow s) : Narrow (complete i s) := by
  cases i <;> exact { hs with }

theorem StepEffect.narrow (hs : Narrow s) (h : StepEffect s t) : Narrow t := by
  cases h with
  | hardReset level => exact { resetOf_narrow s.build with }
  | softReset => exact softReset_narrow hs
  | pushedTe v => exact { hs with inp := forall_memWrite _ hs.inp (fits_truncT _ v) }
  | pushedTd v => exact { hs with dv := forall_memWrite _ hs.dv (fits_truncT _ v) }
  | wroteFs v => exact { hs with tdFs := fits_truncT _ v }
  | performed _ _ _ _ _ ht => exact { perform_narrow hs ht with }
  | completed => exact complete_narrow _ hs
  | _ => exact { hs with }

end

/-- Settles O54: every effect a turn can have keeps the widths. -/
theorem everyStepKeepsTheWidths : Obligations.EveryStepKeepsTheWidths := by
  intro s t hs h
  exact narrow_iff.2 (step_keeps (P := Narrow) (fun _ _ _ hu => { hu with }) (fun _ _ hu he => he.narrow hu)
    (narrow_iff.1 hs) h)

end Sys2Proof.Machine
end

section
/-! What a micro-operation writes (R234): its frame, and what it leaves of the element memories. -/

namespace Sys2Proof.Machine

/-! ## The frame -/

/-- `s` with everything a micro-operation may write taken from `w`: the element memories but `IN`, the hidden detector
state, and the count of NaN draws. -/
def withEngine (s w : State) : State :=
  { s with
    tw := w.tw, br := w.br, win := w.win, work := w.work, out := w.out, dwin := w.dwin, dv := w.dv, top := w.top
    b := w.b, sre := w.sre, sim := w.sim, pres := w.pres, pslope := w.pslope, topcnt := w.topcnt
    nanDraws := w.nanDraws }

theorem perform_frame {u : MicroOp} {s t : State} (h : perform u s = .ok t) : t = withEngine s t := by
  cases u with
  | twgen | brgen | wingen | dwgen | topclr | cbeg => cases h; rfl
  | wld i => obtain ⟨_, _, _, _, _, _, rfl⟩ := doWld_ok h; rfl
  | bfly k q => obtain ⟨_, _, _, _, _, _, rfl⟩ := doBfly_ok h; rfl
  | magk k => obtain ⟨_, _, rfl⟩ := doMagk_ok h; rfl
  | ons n => obtain ⟨_, _, _, _, rfl⟩ := doOns_ok h; rfl
  | cor i n => obtain ⟨_, _, rfl⟩ := doCor_ok h; rfl
  | peak i => rw [(doPeak_ok h).1]; rfl

/-- Settles O27: the frame of every micro-operation. -/
theorem microOperationsWriteOnlyMemories : Obligations.MicroOperationsWriteOnlyMemories :=
  fun _ _ _ h => perform_frame h

/-! ## Element memories only grow -/

/-- `m'` comes from `m` by writes: it keeps the canonical form, and what is written stays written. -/
structure Extends {α : Type} (m m' : Mem α) : Prop where
  wf : Mem.wf m = true → Mem.wf m' = true
  written : ∀ i, written m i = true → Machine.written m' i = true

theorem Extends.refl {α : Type} (m : Mem α) : Extends m m := ⟨id, fun _ => id⟩

theorem Extends.trans {α : Type} {a b c : Mem α} (h : Extends a b) (h' : Extends b c) : Extends a c :=
  ⟨h'.wf ∘ h.wf, fun i hi => h'.written i (h.written i hi)⟩

theorem extends_memWrite {α : Type} (m : Mem α) (i : Nat) (v : α) : Extends m (memWrite m i v) :=
  ⟨wf_memWrite i v, fun _ => written_mono i v⟩

theorem extends_clearTop (f : Flen) (k : Nat) (m : Mem TopEntry) : Extends m (clearTop f k m) :=
  ⟨wf_clearTop f k, fun i hi => by rw [written_clearTop, hi, Bool.or_true]⟩

/-! ## The ranked insertion (R205) -/

/-- The filled part of `TOP` is within its slots, and its entries are written (R41, R205). -/
structure Ranked (s : State) : Prop where
  slots : s.topcnt ≤ s.build.slots
  written : ∀ r < s.topcnt, written s.top r = true

theorem countNotWeaker_of_written {f : Flen} {str : T} {m : Mem TopEntry} : ∀ {k : Nat},
    (∀ r < k, written m r = true) → ∃ p ≤ k, countNotWeaker f str m k = .ok p := by
  intro k
  induction k with
  | zero => exact fun _ => ⟨0, le_rfl, rfl⟩
  | succ r ih =>
    intro hw
    obtain ⟨p, hp, hcount⟩ := ih fun j hj => hw j (Nat.lt_succ_of_lt hj)
    obtain ⟨e, -, he⟩ := readElem_of_written (name := .top) (hw r (Nat.lt_succ_self r))
    simp only [countNotWeaker, hcount, he, bind, Except.bind]
    split
    · exact ⟨p, by omega, rfl⟩
    · exact ⟨p + 1, by omega, rfl⟩

theorem shiftTop_extends {p k : Nat} {m : Mem TopEntry} (h : ∀ j, p ≤ j → j < p + k → written m j = true) :
    ∃ m', shiftTop p k m = .ok m' ∧ Extends m m' ∧ ∀ j, p < j → j ≤ p + k → written m' j = true := by
  obtain ⟨m', hm', hwf, hread⟩ := shiftTop_of_written p k m h
  have hmoved : ∀ j, p < j → j ≤ p + k → written m' j = true := by
    intro j hlo hhi
    rw [written, hread j, if_pos ⟨hlo, hhi⟩]
    exact h (j - 1) (by omega) (by omega)
  refine ⟨m', hm', ⟨hwf, fun j hj => ?_⟩, hmoved⟩
  by_cases hin : p < j ∧ j ≤ p + k
  · exact hmoved j hin.1 hin.2
  · rwa [written, hread j, if_neg hin]

/-- With room and the counted entries written, the insertion answers, and one more entry is filled. -/
theorem insertAmong_answers {cnt : Nat} {s : State} (str : T) (cand : BitVec 24) (hroom : cnt < s.build.slots)
    (hw : ∀ r < cnt, written s.top r = true) :
    ∃ t, insertAmong cnt str cand s = .ok t ∧ Extends s.top t.top ∧ Ranked t := by
  obtain ⟨p, hp, hcount⟩ := countNotWeaker_of_written (f := s.build.flen) (str := str) hw
  obtain ⟨m, hm, hext, hmoved⟩ := shiftTop_extends (p := p) (k := cnt - p) (m := s.top)
    fun j _ hj => hw j (by omega)
  refine ⟨{ s with top := memWrite m p { str := str, cand := cand }, topcnt := cnt + 1 }, ?_,
    hext.trans (extends_memWrite m p _), hroom, fun r hr => ?_⟩
  · simp only [insertAmong, hcount, bind, Except.bind, hm]
  · have hr' : r < cnt + 1 := hr
    rcases Nat.lt_trichotomy r p with hlt | rfl | hgt
    · exact written_mono p _ (hext.written r (hw r (by omega)))
    · simp
    · exact written_mono p _ (hmoved r hgt (by omega))

theorem insertTop_answers {s : State} (str : T) (cand : BitVec 24) (hslots : 1 ≤ s.build.slots) (hs : Ranked s) :
    ∃ t, insertTop str cand s = .ok t ∧ Extends s.top t.top ∧ Ranked t := by
  unfold insertTop
  split
  · next hfull =>
    obtain ⟨e, -, he⟩ := readElem_of_written (name := .top) (hs.written (s.build.slots - 1) (by omega))
    simp only [he, bind, Except.bind]
    split
    · exact insertAmong_answers str cand (by omega) fun r hr => hs.written r (by omega)
    · exact ⟨s, rfl, .refl _, hs⟩
  · exact insertAmong_answers str cand (lt_of_le_of_ne hs.slots ‹_›) hs.written

theorem doPeak_answers {s : State} (i : Nat) (hslots : 1 ≤ s.build.slots) (hs : Ranked s) :
    ∃ t, doPeak i s = .ok t ∧ Extends s.top t.top ∧ Ranked t := by
  have hreport : ∀ res, ∃ t, reportPeak i res s = .ok t ∧ Extends s.top t.top ∧ Ranked t := by
    intro res
    unfold reportPeak
    split <;> exact insertTop_answers _ _ hslots hs
  simp only [doPeak]
  split
  · obtain ⟨t, ht, hext, hranked⟩ := hreport (cabs s.build.flen s.nanDraws { re := s.sre, im := s.sim })
    simp only [ht, bind, Except.bind]
    exact ⟨_, rfl, hext, hranked.slots, hranked.written⟩
  · exact ⟨_, rfl, .refl _, hs.slots, hs.written⟩

theorem doCor_of_term {n : Nat} {a : T} {s : State} (ha : corTerm s n = .ok a) :
    doCor n s = .ok { s with
      sre := fadd s.build.flen (s.nanDraws + 2) s.sre
        (fmul s.build.flen (s.nanDraws + 1) a (rot s.build s.b n s.tdFs).re)
      sim := fadd s.build.flen (s.nanDraws + 4) s.sim
        (fmul s.build.flen (s.nanDraws + 3) a (rot s.build s.b n s.tdFs).im)
      nanDraws := s.nanDraws + 5 } := by
  simp only [doCor, ha]
  rfl

/-! ## Every micro-operation answers where its operands are written -/

/-- What a micro-operation needs of the state it is performed in: the elements it reads are written; `BRGEN` needs a
size that is a power of two, for its result to be an index below it (R144). -/
def operandsReady (s : State) : MicroOp → Prop
  | .brgen _ => ∃ l, curArg s = 2 ^ l
  | .wld i => ∃ r, memRead s.br i = some r ∧ written s.inp r = true ∧ written s.win (foldIdx r s.teN) = true
  | .bfly k q => written s.tw (bflyTwidx s.teN k q) = true ∧ written s.work (bflyUpper k q) = true ∧
      written s.work (bflyLower k q) = true
  | .magk k => written s.work k = true
  | .ons n => written s.dv n = true ∧ written s.dv (n - 1) = true
  | .cor _ n => written s.dv n = true ∧ written s.dwin (foldIdx n s.tdN) = true
  | .peak _ => 1 ≤ s.build.slots
  | .twgen _ | .wingen _ | .dwgen _ | .topclr | .cbeg _ => True

/-- What a micro-operation makes of the element memories: all that was written is still written, and an entry of `BR`
below the latched size is still below it. -/
structure Grows (s t : State) : Prop where
  tw : Extends s.tw t.tw
  br : Extends s.br t.br
  win : Extends s.win t.win
  work : Extends s.work t.work
  out : Extends s.out t.out
  dwin : Extends s.dwin t.dwin
  dv : Extends s.dv t.dv
  top : Extends s.top t.top
  below : ∀ i, brBelow s (curArg s) i = true → brBelow t (curArg s) i = true

theorem Grows.refl (s : State) : Grows s s :=
  { tw := .refl _, br := .refl _, win := .refl _, work := .refl _, out := .refl _, dwin := .refl _, dv := .refl _
    top := .refl _, below := fun _ => id }

theorem bitrev_lt (l i : Nat) : bitrev l i < 2 ^ l := by
  induction l generalizing i with
  | zero => exact Nat.one_pos
  | succ l ih =>
    have hbit : i % 2 * 2 ^ l ≤ 1 * 2 ^ l := Nat.mul_le_mul_right _ (by omega)
    have hrest := ih (i / 2)
    rw [bitrev, Nat.pow_succ]
    omega

theorem brBelow_memWrite {s : State} {n i v : Nat} (hv : v < n) (j : Nat) :
    brBelow { s with br := memWrite s.br i v } n j = (decide (j = i) || brBelow s n j) := by
  simp only [brBelow, memRead_memWrite]
  by_cases h : j = i <;> simp [h, hv]

theorem brgen_grows {s : State} {l i : Nat} (hl : curArg s = 2 ^ l) :
    Grows s (doBrgen i s) ∧ brBelow (doBrgen i s) (curArg s) i = true := by
  have hlt : bitrev (Nat.log2 (curArg s)) i < curArg s := by
    rw [hl, Nat.log2_two_pow]
    exact bitrev_lt l i
  have hbelow : ∀ j, brBelow (doBrgen i s) (curArg s) j = (decide (j = i) || brBelow s (curArg s) j) :=
    brBelow_memWrite hlt
  exact ⟨{ Grows.refl s with
    br := extends_memWrite _ _ _
    below := fun j hj => by rw [hbelow, hj, Bool.or_true] }, by simp [hbelow]⟩

/-- R234: a micro-operation whose operands are written answers; the memories grow, the ranked collection stays one,
and what the micro-operation writes is written. -/
theorem perform_answers {u : MicroOp} {s : State} (hops : operandsReady s u) (hranked : Ranked s) :
    ∃ t, perform u s = .ok t ∧ Grows s t ∧ Ranked t ∧ hasWritten t u = true := by
  have hkept : ∀ {t : State}, t.build = s.build → t.top = s.top → t.topcnt = s.topcnt → Ranked t := by
    intro t hb ht hc
    exact ⟨by rw [hb, hc]; exact hranked.slots, by rw [ht, hc]; exact hranked.written⟩
  cases u with
  | twgen k =>
    exact ⟨_, rfl, { Grows.refl s with tw := extends_memWrite _ _ _ }, hkept rfl rfl rfl,
      by simp [hasWritten, doTwgen]⟩
  | brgen i =>
    obtain ⟨l, hl⟩ := hops
    obtain ⟨hgrows, hbelow⟩ := brgen_grows (i := i) hl
    exact ⟨_, rfl, hgrows, hkept rfl rfl rfl, hbelow⟩
  | wingen m =>
    exact ⟨_, rfl, { Grows.refl s with win := extends_memWrite _ _ _ }, hkept rfl rfl rfl,
      by simp [hasWritten, doWingen]⟩
  | dwgen m =>
    exact ⟨_, rfl, { Grows.refl s with dwin := extends_memWrite _ _ _ }, hkept rfl rfl rfl,
      by simp [hasWritten, doDwgen]⟩
  | wld i =>
    obtain ⟨r, hr, hx, hw⟩ := hops
    obtain ⟨x, hx, -⟩ := readElem_of_written (name := .inp) hx
    obtain ⟨w, hw, -⟩ := readElem_of_written (name := .win) hw
    exact ⟨_, doWld_of_reads hr hx hw, { Grows.refl s with work := extends_memWrite _ _ _ }, hkept rfl rfl rfl,
      by simp [hasWritten]⟩
  | bfly k q =>
    obtain ⟨hw, hu, hl⟩ := hops
    obtain ⟨w, hw, -⟩ := readElem_of_written (name := .tw) hw
    obtain ⟨u, hu, -⟩ := readElem_of_written (name := .work) hu
    obtain ⟨l, hl, -⟩ := readElem_of_written (name := .work) hl
    exact ⟨_, doBfly_of_reads hw hu hl,
      { Grows.refl s with work := (extends_memWrite _ _ _).trans (extends_memWrite _ _ _) }, hkept rfl rfl rfl, rfl⟩
  | magk k =>
    obtain ⟨z, hz, -⟩ := readElem_of_written (name := .work) hops
    exact ⟨_, doMagk_of_read hz, { Grows.refl s with out := extends_memWrite _ _ _ }, hkept rfl rfl rfl,
      by simp [hasWritten]⟩
  | ons n =>
    obtain ⟨x, hx, -⟩ := readElem_of_written (name := .dv) hops.1
    obtain ⟨y, hy, -⟩ := readElem_of_written (name := .dv) hops.2
    exact ⟨_, doOns_of_reads hx hy, { Grows.refl s with dv := extends_memWrite _ _ _ }, hkept rfl rfl rfl, rfl⟩
  | topclr =>
    refine ⟨_, rfl, { Grows.refl s with top := extends_clearTop _ _ _ }, ⟨Nat.zero_le _, nofun⟩, ?_⟩
    simp only [hasWritten, doTopclr, written_clearTop, List.all_eq_true, List.mem_range]
    intro r hr
    simp [hr]
  | cbeg i => exact ⟨_, rfl, { Grows.refl s with }, hkept rfl rfl rfl, rfl⟩
  | cor i n =>
    exact ⟨_, doCor_of_term (corTerm_of_written hops.1 hops.2), { Grows.refl s with }, hkept rfl rfl rfl, rfl⟩
  | peak i =>
    obtain ⟨t, ht, hext, hranked'⟩ := doPeak_answers i hops hranked
    refine ⟨t, ht, ?_, hranked', rfl⟩
    rw [(doPeak_ok ht).1]
    exact { Grows.refl s with top := hext }

end Sys2Proof.Machine
end

section
/-! What the latch says of the running command: the word of R90, the acceptance checks of R265, the positions of the
list that have been performed (R234). -/

namespace Sys2Proof.Machine

/-! ## The latched word (R90 to R93) -/

theorem decodeNoArg_ok {c : CmdWord} {i j : Instr} (h : decodeNoArg c j = .ok i) : argField c = 0 ∧ i = j := by
  unfold decodeNoArg at h
  split at h
  · next harg => exact ⟨harg, (Except.ok.inj h).symm⟩
  · cases h

/-- The fields of a word that decodes are the command's opcode and argument. -/
theorem fields_of_decode {c : CmdWord} {i : Instr} (h : decode c = .ok i) :
    opField c = i.op ∧ (argField c).toNat = i.arg := by
  have noArg : ∀ {j : Instr}, decodeNoArg c j = .ok i → opField c = j.op → j.arg = 0 →
      opField c = i.op ∧ (argField c).toNat = i.arg := by
    intro j hj hop harg
    obtain ⟨hzero, rfl⟩ := decodeNoArg_ok hj
    exact ⟨hop, by rw [hzero, harg]; rfl⟩
  unfold decode at h
  obtain ⟨h00, h⟩ | ⟨-, h⟩ := ite_eq_iff.1 h
  · exact noArg h h00 rfl
  obtain ⟨h01, h⟩ | ⟨-, h⟩ := ite_eq_iff.1 h
  · cases h; exact ⟨h01, rfl⟩
  obtain ⟨h02, h⟩ | ⟨-, h⟩ := ite_eq_iff.1 h
  · exact noArg h h02 rfl
  obtain ⟨h03, h⟩ | ⟨-, h⟩ := ite_eq_iff.1 h
  · cases h; exact ⟨h03, rfl⟩
  obtain ⟨h04, h⟩ | ⟨-, h⟩ := ite_eq_iff.1 h
  · exact noArg h h04 rfl
  obtain ⟨h05, h⟩ | ⟨-, h⟩ := ite_eq_iff.1 h
  · exact noArg h h05 rfl
  obtain ⟨h11, h⟩ | ⟨-, h⟩ := ite_eq_iff.1 h
  · cases h; exact ⟨h11, rfl⟩
  obtain ⟨h12, h⟩ | ⟨-, h⟩ := ite_eq_iff.1 h
  · exact noArg h h12 rfl
  obtain ⟨h13, h⟩ | ⟨-, h⟩ := ite_eq_iff.1 h
  · exact noArg h h13 rfl
  obtain ⟨h14, h⟩ | ⟨-, h⟩ := ite_eq_iff.1 h
  · exact noArg h h14 rfl
  obtain ⟨h7F, h⟩ | ⟨-, h⟩ := ite_eq_iff.1 h
  · exact noArg h h7F rfl
  · cases h

theorem opField_append_argField (c : CmdWord) : opField c ++ argField c = c := by
  unfold opField argField
  ext i hi
  simp only [BitVec.getElem_append, BitVec.getElem_extractLsb', Nat.zero_add]
  split
  · rw [BitVec.getLsbD_eq_getElem]
  · rw [BitVec.getLsbD_eq_getElem (by omega)]
    congr 1
    omega

/-- R92, R96: a word that decodes is the one its command assembles to. -/
theorem encode_eq_of_decode {c : CmdWord} {i : Instr} (h : decode c = .ok i) : encode i = c := by
  obtain ⟨hop, harg⟩ := fields_of_decode h
  rw [encode, ← hop, ← harg, BitVec.ofNat_toNat, BitVec.setWidth_eq]
  exact opField_append_argField c

/-! ## The acceptance checks (R265) -/

theorem isPow2_iff {n : Nat} : isPow2 n = true ↔ ∃ l, 1 ≤ l ∧ n = 2 ^ l := by
  simp only [isPow2, Bool.and_eq_true, decide_eq_true_eq, beq_iff_eq]
  constructor
  · rintro ⟨htwo, hand⟩
    refine ⟨Nat.log2 n, (Nat.le_log2 (by omega)).2 htwo, ?_⟩
    have hle := Nat.log2_self_le (n := n) (by omega)
    by_contra hne
    have htop : (n &&& (n - 1)).testBit (Nat.log2 n) = true := by
      rw [Nat.testBit_and, Nat.testBit_log2 (by omega),
        Nat.testBit_of_two_pow_le_and_two_pow_add_one_gt (by omega)
          (Nat.lt_of_le_of_lt (Nat.sub_le n 1) Nat.lt_log2_self)]
      rfl
    rw [hand, Nat.zero_testBit] at htop
    cases htop
  · rintro ⟨l, hl, rfl⟩
    exact ⟨Nat.le_self_pow (by omega) 2, by rw [Nat.and_two_pow_sub_one_eq_mod, Nat.mod_self]⟩

section

variable {s : State}

theorem teInitCheck_none {n : Nat} (h : teInitCheck n s = none) :
    ∃ l, 1 ≤ l ∧ n = 2 ^ l ∧ l ≤ s.build.log2nMax := by
  unfold teInitCheck at h
  split at h
  · cases h
  · next hok =>
    simp only [Bool.or_eq_true, Bool.not_eq_true', decide_eq_true_eq, not_or, Bool.not_eq_false, Nat.not_lt] at hok
    obtain ⟨l, hl, rfl⟩ := isPow2_iff.1 hok.1
    exact ⟨l, hl, rfl, (Nat.pow_le_pow_iff_right (by omega)).1 hok.2⟩

theorem teWinldCheck_none (h : teWinldCheck s = none) : s.teValid = true ∧ s.teIncnt = s.teN := by
  unfold teWinldCheck at h
  split_ifs at h with hv hn
  exact ⟨by simpa using hv, by simpa using hn⟩

theorem teXformCheck_none (h : teXformCheck s = none) : s.teValid = true ∧ s.teIncnt = s.teN :=
  teWinldCheck_none h

theorem teStageCheck_none {k : Nat} (h : teStageCheck k s = none) :
    s.teValid = true ∧ s.workValid = true ∧ k < s.teLog2n := by
  unfold teStageCheck at h
  split_ifs at h with hv hk
  rw [not_or, Bool.not_eq_false, Bool.not_eq_false] at hv
  exact ⟨hv.1, hv.2, by omega⟩

theorem teMagCheck_none (h : teMagCheck s = none) : s.teValid = true ∧ s.workValid = true := by
  unfold teMagCheck at h
  split_ifs at h with hv
  rwa [not_or, Bool.not_eq_false, Bool.not_eq_false] at hv

theorem tdInitCheck_none {n : Nat} (h : tdInitCheck n s = none) : 1 ≤ n ∧ n ≤ 2 ^ s.build.log2ndMax := by
  unfold tdInitCheck at h
  split_ifs at h with hn
  omega

theorem tdOnsetCheck_none (h : tdOnsetCheck s = none) :
    s.tdValid = true ∧ s.onsValid = false ∧ s.tdIncnt = s.tdN := by
  unfold tdOnsetCheck at h
  split_ifs at h with hv hn
  rw [not_or, Bool.not_eq_false, Bool.not_eq_true] at hv
  exact ⟨hv.1, hv.2, by simpa using hn⟩

theorem tdSweepCheck_none (h : tdSweepCheck s = none) : s.tdValid = true ∧ s.onsValid = true := by
  unfold tdSweepCheck at h
  split_ifs at h with hv
  rwa [not_or, Bool.not_eq_false, Bool.not_eq_false] at hv

theorem tdDetectCheck_none (h : tdDetectCheck s = none) :
    s.tdValid = true ∧ s.onsValid = false ∧ s.tdIncnt = s.tdN := by
  unfold tdDetectCheck at h
  split_ifs at h with hv hn
  rw [not_or, Bool.not_eq_false, Bool.not_eq_true] at hv
  exact ⟨hv.1, hv.2, by simpa using hn⟩

end

/-! ## The running list -/

/-- `runningOk` for the command the latch holds, with its parts named. -/
structure Running (i : Instr) (s : State) : Prop where
  notReset : i ≠ .reset
  opc : s.opc = i.op
  unit : s.unit = isTdOpcode i.op
  seq : s.seq ≤ listLen i s
  check : acceptCheck i s = none
  performed : ∀ p < s.seq, ∀ u, uopAt i s p = some u → hasWritten s u = true

theorem progressOk_iff {i : Instr} {s : State} :
    progressOk i s = true ↔ ∀ p < s.seq, ∀ u, uopAt i s p = some u → hasWritten s u = true := by
  simp only [progressOk, List.all_eq_true, List.mem_range]
  refine forall₂_congr fun p _ => ?_
  cases uopAt i s p <;> simp

theorem runningOk_iff {i : Instr} {s : State} (hd : decode s.cur = .ok i) : runningOk s = true ↔ Running i s := by
  simp only [runningOk, hd, Bool.and_eq_true, bne_iff_ne, beq_iff_eq, decide_eq_true_eq, progressOk_iff]
  constructor
  · rintro ⟨⟨⟨⟨⟨hr, ho⟩, hu⟩, hn⟩, hc⟩, hp⟩
    exact ⟨hr, ho, hu, hn, hc, hp⟩
  · rintro ⟨hr, ho, hu, hn, hc, hp⟩
    exact ⟨⟨⟨⟨⟨hr, ho⟩, hu⟩, hn⟩, hc⟩, hp⟩

theorem running_of_inv {s : State} (hs : Inv s) (hb : s.busy = true) : ∃ i, decode s.cur = .ok i ∧ Running i s := by
  have hok := hs.running hb
  cases hd : decode s.cur with
  | ok i => exact ⟨i, rfl, (runningOk_iff hd).1 hok⟩
  | error e => simp [runningOk, hd] at hok

/-- Only `TE.INIT` has `BRGEN` in its list. -/
theorem op_of_uopAt_brgen {i : Instr} {s : State} {p j : Nat} (h : uopAt i s p = some (.brgen j)) : i.op = 0x01 := by
  cases i with
  | teInit n => rfl
  | nop | teWinld | teStage | teMag | tdInit | tdOnset | reset => cases h
  | teXform =>
    simp only [uopAt, teXformUop] at h
    split_ifs at h <;> cases h
  | tdSweep =>
    simp only [uopAt, tdSweepUop] at h
    split_ifs at h <;> cases h
  | tdDetect =>
    simp only [uopAt, tdDetectUop, tdSweepUop] at h
    split_ifs at h <;> cases h

theorem perform_br {u : MicroOp} {s t : State} (h : perform u s = .ok t) (hu : ∀ i, u ≠ .brgen i) : t.br = s.br := by
  cases u with
  | brgen i => exact absurd rfl (hu i)
  | twgen | wingen | dwgen | topclr | cbeg => cases h; rfl
  | wld i => obtain ⟨_, _, _, _, _, _, rfl⟩ := doWld_ok h; rfl
  | bfly k q => obtain ⟨_, _, _, _, _, _, rfl⟩ := doBfly_ok h; rfl
  | magk k => obtain ⟨_, _, rfl⟩ := doMagk_ok h; rfl
  | ons n => obtain ⟨_, _, _, _, rfl⟩ := doOns_ok h; rfl
  | cor i n => obtain ⟨_, _, rfl⟩ := doCor_ok h; rfl
  | peak i => rw [(doPeak_ok h).1]

/-- Every position of a list has a micro-operation. -/
theorem uopAt_isSome {i : Instr} {s : State} {p : Nat} (h : p < listLen i s) : ∃ u, uopAt i s p = some u := by
  cases i with
  | nop | reset => cases h
  | _ => exact ⟨_, rfl⟩

end Sys2Proof.Machine
end

section
/-! The invariant gives every micro-operation of the running list its operands (R45, R234). -/

namespace Sys2Proof.Machine

/-! ## Index arithmetic (R162, R167, R203) -/

theorem foldIdx_lt (r n : Nat) : foldIdx r n < n / 2 + 1 := by
  unfold foldIdx
  omega

/-- R130, R167: a butterfly of a stage below `l` stays inside `WORK` and `TW`. -/
theorem bfly_indices_lt {l k q : Nat} (hk : k < l) (hq : q < 2 ^ l / 2) :
    bflyTwidx (2 ^ l) k q < 2 ^ l / 2 ∧ bflyUpper k q < 2 ^ l ∧ bflyLower k q < 2 ^ l := by
  obtain ⟨m, rfl⟩ := Nat.exists_eq_add_of_lt hk
  have hstage : 0 < 2 ^ k := Nat.two_pow_pos k
  have hsize : 2 ^ (k + m + 1) = 2 * 2 ^ k * 2 ^ m := by rw [Nat.pow_succ, Nat.pow_add]; ring
  have hhalf : 2 ^ (k + m + 1) / 2 = 2 ^ k * 2 ^ m := by
    rw [Nat.pow_succ, Nat.mul_div_cancel _ (by omega), Nat.pow_add]
  have hrem : q % 2 ^ k < 2 ^ k := Nat.mod_lt q hstage
  have hgroup : q / 2 ^ k + 1 ≤ 2 ^ m := Nat.div_lt_of_lt_mul (hhalf ▸ hq)
  have hpair : (q / 2 ^ k + 1) * (2 * 2 ^ k) ≤ 2 ^ m * (2 * 2 ^ k) := Nat.mul_le_mul_right _ hgroup
  have hquot : 2 ^ (k + m + 1) / (2 * 2 ^ k) = 2 ^ m := by rw [hsize, Nat.mul_div_cancel_left _ (by omega)]
  have hupper : bflyUpper k q < 2 ^ (k + m + 1) := by
    rw [hsize, Nat.mul_comm _ (2 ^ m)]
    unfold bflyUpper bflyLower bflyStage
    rw [Nat.add_mul] at hpair
    omega
  refine ⟨?_, hupper, lt_of_le_of_lt (Nat.le_add_right _ _) hupper⟩
  rw [bflyTwidx, bflyStage, hquot, hhalf]
  exact Nat.mul_lt_mul_of_pos_right hrem (Nat.two_pow_pos m)

/-! ## Operands -/

section

variable {s : State} (hs : Inv s)

include hs

theorem Inv.slots_pos : 1 ≤ s.build.slots := by
  have h := hs.build
  simp only [Build.wf, Bool.and_eq_true, decide_eq_true_eq] at h
  exact h.2.1

theorem Inv.rankedTop : Ranked s := ⟨hs.topcnt, hs.ranked⟩

theorem Inv.two_le_teN (hv : s.teValid = true) : 2 ≤ s.teN := by
  obtain ⟨hn, hl, -⟩ := hs.teOn hv
  rw [hn]
  exact Nat.le_self_pow (by omega) 2

theorem wld_ready {i : Nat} (hv : s.teValid = true) (hfull : s.teIncnt = s.teN)
    (hop : (s.busy && s.opc == 0x01) = false) (hi : i < s.teN) : operandsReady s (.wld i) := by
  have hbelow := hs.boundBr hv hop i hi
  unfold brBelow at hbelow
  split at hbelow
  · next r hr =>
    refine ⟨r, hr, hs.haveInp r ?_, hs.haveWin hv _ (foldIdx_lt r s.teN)⟩
    rw [hfull]
    exact of_decide_eq_true hbelow
  · cases hbelow

theorem bfly_ready {k q : Nat} (hv : s.teValid = true) (hwork : ∀ i < s.teN, written s.work i = true)
    (hk : k < s.teLog2n) (hq : q < s.teN / 2) : operandsReady s (.bfly k q) := by
  obtain ⟨hn, -, -⟩ := hs.teOn hv
  obtain ⟨htw, hup, hlo⟩ := bfly_indices_lt hk (hn ▸ hq)
  rw [← hn] at htw hup hlo
  exact ⟨hs.haveTw hv _ htw, hwork _ hup, hwork _ hlo⟩

theorem ons_ready {n : Nat} (hfull : s.tdIncnt = s.tdN) (hn : n < s.tdN) : operandsReady s (.ons n) :=
  ⟨hs.haveDv n (hfull ▸ hn), hs.haveDv (n - 1) (by omega)⟩

theorem tdSweep_ready (hv : s.tdValid = true) (hfull : s.tdIncnt = s.tdN) (p : Nat) :
    operandsReady s (tdSweepUop s p) := by
  simp only [tdSweepUop]
  split_ifs with hfirst hbeg hcor
  · trivial
  · trivial
  · exact ⟨hs.haveDv _ (by omega), hs.haveDwin hv _ (foldIdx_lt _ _)⟩
  · exact hs.slots_pos

/-- The operands of the next micro-operation of the running list are written: by the acceptance check, by what the
invariant says of the tables and buffers, and by the positions performed before it. -/
theorem next_operandsReady {i : Instr} {u : MicroOp} (hd : decode s.cur = .ok i) (hrun : Running i s)
    (hlt : s.seq < listLen i s) (hu : uopAt i s s.seq = some u) : operandsReady s u := by
  have hop : i.op ≠ 0x01 → (s.busy && s.opc == 0x01) = false := by
    intro h
    rw [hrun.opc, beq_eq_false_iff_ne.2 h, Bool.and_false]
  cases i with
  | nop | reset => cases hu
  | teInit n =>
    obtain ⟨l, -, rfl, -⟩ := teInitCheck_none hrun.check
    cases hu
    simp only [teInitUop]
    split_ifs
    · trivial
    · exact ⟨l, (fields_of_decode hd).2⟩
    · trivial
  | tdInit n => cases hu; trivial
  | teWinld =>
    obtain ⟨hv, hfull⟩ := teWinldCheck_none hrun.check
    cases hu
    exact wld_ready hs hv hfull (hop (by decide)) hlt
  | teStage k =>
    obtain ⟨hv, hw, hk⟩ := teStageCheck_none hrun.check
    cases hu
    exact bfly_ready hs hv (hs.haveWork hw) hk hlt
  | teMag =>
    obtain ⟨hv, hw⟩ := teMagCheck_none hrun.check
    have htwo := hs.two_le_teN hv
    have hpos : s.seq < s.teN / 2 + 1 := hlt
    cases hu
    exact hs.haveWork hw _ (by omega)
  | teXform =>
    obtain ⟨hv, hfull⟩ := teXformCheck_none hrun.check
    have htwo := hs.two_le_teN hv
    have hpos : s.seq < s.teN + s.teLog2n * (s.teN / 2) + s.teN / 2 + 1 := hlt
    have hwork : s.teN ≤ s.seq → ∀ j < s.teN, written s.work j = true := by
      intro hge j hj
      exact hrun.performed j (by omega) (.wld j) (by simp [uopAt, teXformUop, hj])
    cases hu
    simp only [teXformUop]
    split_ifs with hwld hbfly
    · exact wld_ready hs hv hfull (hop (by decide)) hwld
    · refine bfly_ready hs hv (hwork (by omega)) (Nat.div_lt_of_lt_mul ?_) (Nat.mod_lt _ (by omega))
      rw [Nat.mul_comm]
      omega
    · exact hwork (by omega) _ (by omega)
  | tdOnset =>
    obtain ⟨hv, -, hfull⟩ := tdOnsetCheck_none hrun.check
    have hpos : s.seq < s.tdN - 1 := hlt
    cases hu
    exact ons_ready hs hfull (by omega)
  | tdSweep =>
    obtain ⟨hv, hons⟩ := tdSweepCheck_none hrun.check
    cases hu
    exact tdSweep_ready hs hv (hs.onsFull hons) _
  | tdDetect =>
    obtain ⟨hv, -, hfull⟩ := tdDetectCheck_none hrun.check
    cases hu
    simp only [tdDetectUop]
    split_ifs with honset
    · exact ons_ready hs hfull (by omega)
    · exact tdSweep_ready hs hv hfull _

end

end Sys2Proof.Machine
end

section
/-! The invariant is kept by every effect of a turn. -/

namespace Sys2Proof.Machine

variable {s : State}

/-! ## The error record (R262, R266) -/

/-- What `Inv` says of the error record (R27, R28, R266). -/
structure ErrorRecord (s : State) : Prop where
  bits : s.err &&& ~~~0x000001FE#32 = 0
  record : s.ecode = 0 ↔ s.err = 0
  info : s.ecode = 0 → s.einfo = 0

theorem Inv.errorRecord (hs : Inv s) : ErrorRecord s := ⟨hs.errBits, hs.record, hs.info⟩

theorem raise_errorRecord (e : ErrCode) (x : BitVec 32) (h : ErrorRecord s) : ErrorRecord (raise e x s) := by
  have hflag : (1#32 <<< e.code) &&& ~~~0x000001FE#32 = 0 ∧ 1#32 <<< e.code ≠ 0 ∧ BitVec.ofNat 8 e.code ≠ 0 := by
    cases e <;> decide
  obtain ⟨hbits, hne, hcode⟩ := hflag
  have herr : (raise e x s).err ≠ 0 := by
    rw [raise_err]
    exact fun h0 => hne (BitVec.or_eq_zero_iff.1 h0).2
  have hecode : (raise e x s).ecode ≠ 0 := by
    rw [raise_ecode]
    split
    · exact hcode
    · assumption
  refine ⟨?_, iff_of_false hecode herr, fun h0 => absurd h0 hecode⟩
  rw [raise_err, BitVec.and_or_distrib_right, h.bits, hbits]
  rfl

theorem clearErrors_errorRecord (v : BitVec 32) (h : ErrorRecord s) : ErrorRecord (clearErrors v s) := by
  have hbits : (clearErrors v s).err &&& ~~~0x000001FE#32 = 0 := by
    rw [clearErrors_err, BitVec.and_assoc, BitVec.and_comm (~~~_), ← BitVec.and_assoc, h.bits]
    exact BitVec.zero_and
  by_cases hnone : (clearErrors v s).err = 0
  · have hecode : (clearErrors v s).ecode = 0 := if_pos hnone
    have heinfo : (clearErrors v s).einfo = 0 := if_pos hnone
    exact ⟨hbits, iff_of_true hecode hnone, fun _ => heinfo⟩
  · have hecode : (clearErrors v s).ecode = s.ecode := if_neg hnone
    have hsome : s.ecode ≠ 0 := by
      intro h0
      refine hnone ?_
      rw [clearErrors_err, h.record.1 h0]
      exact BitVec.zero_and
    rw [← hecode] at hsome
    exact ⟨hbits, iff_of_false hsome hnone, fun h0 => absurd h0 hsome⟩

/-! ## The effects of a host turn and of the reset input -/

theorem raise_inv (e : ErrCode) (x : BitVec 32) (hs : Inv s) : Inv (raise e x s) :=
  have h := raise_errorRecord e x hs.errorRecord
  { hs with errBits := h.bits, record := h.record, info := h.info }

theorem clearErrors_inv (v : BitVec 32) (hs : Inv s) : Inv (clearErrors v s) :=
  have h := clearErrors_errorRecord v hs.errorRecord
  { hs with errBits := h.bits, record := h.record, info := h.info }

theorem softReset_inv (hs : Inv s) : Inv (softReset s) :=
  { resetMeetsTheInvariant s.build hs.build with
    wfTw := hs.wfTw, wfBr := hs.wfBr, wfWin := hs.wfWin, wfInp := hs.wfInp, wfWork := hs.wfWork
    wfOut := hs.wfOut, wfDwin := hs.wfDwin, wfDv := hs.wfDv, wfTop := hs.wfTop
    haveTw := nofun, haveBr := nofun, haveWin := nofun, boundBr := nofun, haveInp := nofun, haveWork := nofun
    haveOut := nofun, haveDwin := nofun, haveDv := nofun, haveTop := nofun, ranked := nofun }

theorem pushedTe_inv (v : T) (hs : Inv s) (hb : s.busy = false) (hn : s.teIncnt ≠ s.teN) :
    Inv { s with inp := memWrite s.inp s.teIncnt v, teIncnt := s.teIncnt + 1 } :=
  { hs with
    teCursor := Nat.lt_of_le_of_ne hs.teCursor hn
    wfInp := wf_memWrite _ _ hs.wfInp
    haveInp := by
      intro i hi
      rcases Nat.lt_succ_iff_lt_or_eq.1 hi with hlt | rfl
      · exact written_mono _ _ (hs.haveInp i hlt)
      · simp
    running := fun hbusy => absurd (hb.symm.trans hbusy) (by decide) }

theorem pushedTd_inv (v : T) (hs : Inv s) (hb : s.busy = false) (hn : s.tdIncnt ≠ s.tdN) :
    Inv { s with dv := memWrite s.dv s.tdIncnt v, tdIncnt := s.tdIncnt + 1 } :=
  { hs with
    tdCursor := Nat.lt_of_le_of_ne hs.tdCursor hn
    onsFull := fun hons => absurd (hs.onsFull hons) hn
    wfDv := wf_memWrite _ _ hs.wfDv
    haveDv := by
      intro i hi
      rcases Nat.lt_succ_iff_lt_or_eq.1 hi with hlt | rfl
      · exact written_mono _ _ (hs.haveDv i hlt)
      · simp
    running := fun hbusy => absurd (hb.symm.trans hbusy) (by decide) }

/-- While idle nothing is asked of the latch, so a detector register may take any value. -/
theorem detectorRegs_inv (fs : T) (frame : BitVec 32) (lo hi : BitVec 24) (win : Bool) (hs : Inv s)
    (hb : s.busy = false) : Inv { s with tdFs := fs, tdFrame := frame, tdLo := lo, tdHi := hi, tdWin := win } :=
  { hs with running := fun hbusy => absurd (hb.symm.trans hbusy) (by decide) }

@[simp] theorem acceptCheck_accept (i : Instr) (c : CmdWord) (s : State) :
    acceptCheck i (accept c s) = acceptCheck i s := by
  cases i <;> rfl

theorem accept_inv {c : CmdWord} {i : Instr} (hs : Inv s) (hd : decode c = .ok i) (hr : i ≠ .reset)
    (hb : s.busy = false) (hc : acceptCheck i s = none) : Inv (accept (encode i) s) := by
  rw [encode_eq_of_decode hd]
  have hop := (fields_of_decode hd).1
  have hrun : Running i (accept c s) :=
    { notReset := hr
      opc := hop
      unit := by rw [accept_unit, hop]
      seq := Nat.zero_le _
      check := by rw [acceptCheck_accept, hc]
      performed := nofun }
  exact { hs with
    idle := nofun
    boundBr := fun hv _ => hs.boundBr hv (by rw [hb, Bool.false_and])
    running := fun _ => (runningOk_iff (s := accept c s) hd).2 hrun }

/-! ## A micro-operation (R234) -/

/-- A micro-operation and the step of `SEQ` leave the acceptance check and the list of a command as they are. -/
theorem acceptCheck_uop (i : Instr) (s w : State) (n : Nat) :
    acceptCheck i { withEngine s w with seq := n } = acceptCheck i s := by cases i <;> rfl

theorem listLen_uop (i : Instr) (s w : State) (n : Nat) : listLen i { withEngine s w with seq := n } = listLen i s := by
  cases i <;> rfl

theorem uopAt_uop (i : Instr) (s w : State) (n p : Nat) :
    uopAt i { withEngine s w with seq := n } p = uopAt i s p := by cases i <;> rfl

theorem Grows.hasWritten {t : State} (hg : Grows s t) (hframe : t = withEngine s t) {u : MicroOp}
    (hu : hasWritten s u = true) : Machine.hasWritten t u = true := by
  have hbuild : t.build = s.build := by rw [hframe]; rfl
  have hcur : curArg t = curArg s := by rw [hframe]; rfl
  cases u with
  | twgen k => exact hg.tw.written k hu
  | brgen i =>
    show brBelow t (curArg t) i = true
    rw [hcur]
    exact hg.below i hu
  | wingen m => exact hg.win.written m hu
  | dwgen m => exact hg.dwin.written m hu
  | wld i => exact hg.work.written i hu
  | magk k => exact hg.out.written k hu
  | topclr =>
    simp only [Machine.hasWritten, List.all_eq_true, List.mem_range] at hu ⊢
    intro r hr
    exact hg.top.written r (hu r (hbuild ▸ hr))
  | bfly | ons | cbeg | cor | peak => rfl

/-- The sequencer's step on an unfinished list performs its micro-operation and keeps the invariant. -/
theorem performed_inv {i : Instr} {u : MicroOp} (hs : Inv s) (hb : s.busy = true) (hd : decode s.cur = .ok i)
    (hlt : s.seq < listLen i s) (hu : uopAt i s s.seq = some u) :
    ∃ t, perform u s = .ok t ∧ Inv { t with seq := t.seq + 1 } := by
  have hrun := (runningOk_iff hd).1 (hs.running hb)
  obtain ⟨t, ht, hg, hranked, hwrote⟩ :=
    perform_answers (next_operandsReady hs hd hrun hlt hu) hs.rankedTop
  have hframe := perform_frame ht
  refine ⟨t, ht, ?_⟩
  have hbr : (s.busy && s.opc == 0x01) = false → t.br = s.br := by
    intro hop
    refine perform_br ht fun j hj => ?_
    rw [hb, hrun.opc, op_of_uopAt_brgen (hj ▸ hu)] at hop
    cases hop
  have hseq : t.seq = s.seq := by rw [hframe]; rfl
  have hrun' : Running i { withEngine s t with seq := s.seq + 1 } :=
    { notReset := hrun.notReset
      opc := hrun.opc
      unit := hrun.unit
      seq := by rw [listLen_uop]; exact hlt
      check := by rw [acceptCheck_uop]; exact hrun.check
      performed := by
        intro p hp v hv
        rw [uopAt_uop] at hv
        suffices h : hasWritten t v = true by
          rw [hframe] at h
          cases v <;> exact h
        rcases Nat.lt_succ_iff_lt_or_eq.1 hp with hp | rfl
        · exact hg.hasWritten hframe (hrun.performed p hp v hv)
        · rw [hu] at hv
          exact Option.some.inj hv ▸ hwrote }
  have hnew : Inv { withEngine s t with seq := s.seq + 1 } := { hs with
    idle := fun hidle => absurd (hb.symm.trans hidle) (by decide)
    wfTw := hg.tw.wf hs.wfTw
    wfBr := hg.br.wf hs.wfBr
    wfWin := hg.win.wf hs.wfWin
    wfWork := hg.work.wf hs.wfWork
    wfOut := hg.out.wf hs.wfOut
    wfDwin := hg.dwin.wf hs.wfDwin
    wfDv := hg.dv.wf hs.wfDv
    wfTop := hg.top.wf hs.wfTop
    haveTw := fun hv k hk => hg.tw.written k (hs.haveTw hv k hk)
    haveBr := fun hv k hk => hg.br.written k (hs.haveBr hv k hk)
    haveWin := fun hv k hk => hg.win.written k (hs.haveWin hv k hk)
    boundBr := by
      intro hv hop k hk
      have := hs.boundBr hv hop k hk
      rwa [brBelow, ← hbr hop] at this
    haveWork := fun hv k hk => hg.work.written k (hs.haveWork hv k hk)
    haveOut := fun hv k hk => hg.out.written k (hs.haveOut hv k hk)
    haveDwin := fun hv k hk => hg.dwin.written k (hs.haveDwin hv k hk)
    haveDv := fun k hk => hg.dv.written k (hs.haveDv k hk)
    haveTop := fun hv k hk => hg.top.written k (hs.haveTop hv k hk)
    topcnt := by
      have := hranked.slots
      rwa [hframe] at this
    ranked := hranked.written
    running := fun _ => (runningOk_iff (s := { withEngine s t with seq := s.seq + 1 }) hd).2 hrun' }
  rw [hseq, hframe]
  exact hnew

/-! ## The completion step (R235) -/

/-- A finished list has written all it writes. -/
theorem Running.allPerformed {i : Instr} (h : Running i s) (hge : listLen i s ≤ s.seq) {p : Nat}
    (hp : p < listLen i s) {u : MicroOp} (hu : uopAt i s p = some u) : hasWritten s u = true :=
  h.performed p (by omega) u hu

/-- A state whose command changes no flag in its completion meets the invariant when it goes idle. -/
theorem finish_inv (hs : Inv s) (hop : (s.busy && s.opc == 0x01) = false) : Inv (finish s) :=
  { hs with
    idle := fun _ => ⟨rfl, rfl, rfl⟩
    boundBr := fun hv _ => hs.boundBr hv hop
    running := nofun }

theorem teInit_complete_inv {n : Nat} (hs : Inv s) (hd : decode s.cur = .ok (.teInit n)) (hrun : Running (.teInit n) s)
    (hge : listLen (.teInit n) s ≤ s.seq) : Inv (complete (.teInit n) s) := by
  obtain ⟨l, hl, hn, hmax⟩ := teInitCheck_none hrun.check
  have hcur : curArg s = n := (fields_of_decode hd).2
  have hlen : listLen (.teInit n) s = 2 * n + 1 := rfl
  have htw : ∀ k < n / 2, written s.tw k = true := by
    intro k hk
    exact hrun.allPerformed hge (p := k) (u := .twgen k) (by omega) (by simp [uopAt, teInitUop, hk])
  have hbr : ∀ i < n, brBelow s n i = true := by
    intro i hi
    have h := hrun.allPerformed hge (p := n / 2 + i) (u := .brgen i) (by omega) (by simp [uopAt, teInitUop, hi])
    rwa [hasWritten, hcur] at h
  have hwin : ∀ m < n / 2 + 1, written s.win m = true := by
    intro m hm
    refine hrun.allPerformed hge (p := n / 2 + n + m) (u := .wingen m) (by omega) ?_
    have hlow : ¬ n / 2 + n + m < n / 2 := by omega
    simp [uopAt, teInitUop, hlow]
  have hlog : Nat.log2 n = l := by rw [hn, Nat.log2_two_pow]
  exact { hs with
    idle := fun _ => ⟨rfl, rfl, rfl⟩
    teOff := nofun
    teOn := fun _ => by
      show n = 2 ^ Nat.log2 n ∧ 1 ≤ Nat.log2 n ∧ Nat.log2 n ≤ s.build.log2nMax
      rw [hlog]
      exact ⟨hn, hl, hmax⟩
    teCursor := Nat.zero_le _
    haveTw := fun _ => htw
    haveBr := fun _ i hi => by
      have h := hbr i hi
      unfold brBelow at h
      unfold written
      split at h
      · next r hr => rw [show (complete (.teInit n) s).br = s.br from rfl, hr]; rfl
      · cases h
    haveWin := fun _ => hwin
    boundBr := fun _ _ => hbr
    haveInp := nofun
    haveWork := nofun
    haveOut := nofun
    running := nofun }

theorem tdInit_complete_inv {n : Nat} (hs : Inv s) (hrun : Running (.tdInit n) s)
    (hge : listLen (.tdInit n) s ≤ s.seq) (hop : (s.busy && s.opc == 0x01) = false) : Inv (complete (.tdInit n) s) :=
  { finish_inv hs hop with
    tdOff := nofun
    tdOn := fun _ => tdInitCheck_none hrun.check
    tdCursor := Nat.zero_le _
    onsFull := nofun
    haveDwin := fun _ m hm => hrun.allPerformed hge (p := m) (u := .dwgen m) hm rfl
    haveDv := nofun
    haveTop := nofun
    running := nofun }

theorem teWinld_complete_inv (hs : Inv s) (hrun : Running .teWinld s) (hge : listLen .teWinld s ≤ s.seq)
    (hop : (s.busy && s.opc == 0x01) = false) : Inv (complete .teWinld s) := by
  obtain ⟨hv, -⟩ := teWinldCheck_none hrun.check
  exact { finish_inv hs hop with
    teOff := fun hoff => absurd (hv.symm.trans hoff) (by decide)
    teCursor := Nat.zero_le _
    haveInp := nofun
    haveWork := fun _ i hi => hrun.allPerformed hge (p := i) (u := .wld i) hi rfl
    running := nofun }

theorem teMag_complete_inv (hs : Inv s) (hrun : Running .teMag s) (hge : listLen .teMag s ≤ s.seq)
    (hop : (s.busy && s.opc == 0x01) = false) : Inv (complete .teMag s) := by
  obtain ⟨hv, -⟩ := teMagCheck_none hrun.check
  exact { finish_inv hs hop with
    teOff := fun hoff => absurd (hv.symm.trans hoff) (by decide)
    haveOut := fun _ k hk => hrun.allPerformed hge (p := k) (u := .magk k) hk rfl
    running := nofun }

theorem teXform_complete_inv (hs : Inv s) (hrun : Running .teXform s) (hge : listLen .teXform s ≤ s.seq)
    (hop : (s.busy && s.opc == 0x01) = false) : Inv (complete .teXform s) := by
  obtain ⟨hv, -⟩ := teXformCheck_none hrun.check
  have hlen : listLen .teXform s = s.teN + s.teLog2n * (s.teN / 2) + s.teN / 2 + 1 := rfl
  exact { finish_inv hs hop with
    teOff := fun hoff => absurd (hv.symm.trans hoff) (by decide)
    teCursor := Nat.zero_le _
    haveInp := nofun
    haveWork := by
      intro _ i hi
      have hi : i < s.teN := hi
      exact hrun.allPerformed hge (p := i) (u := .wld i) (by omega) (by simp [uopAt, teXformUop, hi])
    haveOut := by
      intro _ k hk
      have hk : k < s.teN / 2 + 1 := hk
      refine hrun.allPerformed hge (p := s.teN + s.teLog2n * (s.teN / 2) + k) (u := .magk k) (by omega) ?_
      have hwld : ¬ s.teN + s.teLog2n * (s.teN / 2) + k < s.teN := by omega
      have hmag : s.teN + s.teLog2n * (s.teN / 2) + k - s.teN - s.teLog2n * (s.teN / 2) = k := by omega
      simp [uopAt, teXformUop, hwld, hmag]
    running := nofun }

theorem tdOnset_complete_inv (hs : Inv s) (hrun : Running .tdOnset s) (hop : (s.busy && s.opc == 0x01) = false) :
    Inv (complete .tdOnset s) := by
  obtain ⟨hv, -, hfull⟩ := tdOnsetCheck_none hrun.check
  exact { finish_inv hs hop with
    tdOff := fun hoff => absurd (hv.symm.trans hoff) (by decide)
    onsFull := fun _ => hfull
    running := nofun }

/-- The completion of a sweep, R206: `TOPCLR` has written every slot. -/
theorem sweepDone_inv (hs : Inv s) (hv : s.tdValid = true) (hclr : hasWritten s .topclr = true)
    (hop : (s.busy && s.opc == 0x01) = false) :
    Inv (finish { s with topValid := true, onsValid := false, tdIncnt := 0 }) := by
  rw [hasWritten, List.all_eq_true] at hclr
  exact { finish_inv hs hop with
    tdOff := fun hoff => absurd (hv.symm.trans hoff) (by decide)
    tdCursor := Nat.zero_le _
    onsFull := nofun
    haveDv := nofun
    haveTop := fun _ r hr => hclr r (List.mem_range.2 hr)
    running := nofun }

theorem complete_inv {i : Instr} (hs : Inv s) (hb : s.busy = true) (hd : decode s.cur = .ok i)
    (hge : listLen i s ≤ s.seq) : Inv (complete i s) := by
  have hrun := (runningOk_iff hd).1 (hs.running hb)
  have hop : i.op ≠ 0x01 → (s.busy && s.opc == 0x01) = false := by
    intro h
    rw [hrun.opc, beq_eq_false_iff_ne.2 h, Bool.and_false]
  cases i with
  | reset => exact absurd rfl hrun.notReset
  | nop => exact finish_inv hs (hop (by decide))
  | teInit n => exact teInit_complete_inv hs hd hrun hge
  | teWinld => exact teWinld_complete_inv hs hrun hge (hop (by decide))
  | teStage k => exact finish_inv hs (hop (show (0x03 : BitVec 8) ≠ 0x01 by decide))
  | teMag => exact teMag_complete_inv hs hrun hge (hop (by decide))
  | teXform => exact teXform_complete_inv hs hrun hge (hop (by decide))
  | tdInit n => exact tdInit_complete_inv hs hrun hge (hop (show (0x11 : BitVec 8) ≠ 0x01 by decide))
  | tdOnset => exact tdOnset_complete_inv hs hrun (hop (by decide))
  | tdSweep =>
    have hlen : listLen .tdSweep s = 1 + candidates s * (s.tdN + 2) := rfl
    exact sweepDone_inv hs (tdSweepCheck_none hrun.check).1
      (hrun.allPerformed hge (p := 0) (by omega) rfl) (hop (by decide))
  | tdDetect =>
    have hlen : listLen .tdDetect s = (s.tdN - 1) + (1 + candidates s * (s.tdN + 2)) := rfl
    exact sweepDone_inv hs (tdDetectCheck_none hrun.check).1
      (hrun.allPerformed hge (p := s.tdN - 1) (by omega) (by simp [uopAt, tdDetectUop, tdSweepUop])) (hop (by decide))

/-! ## Every effect -/

theorem StepEffect.inv {t : State} (hs : Inv s) (h : StepEffect s t) : Inv t := by
  cases h with
  | hardReset level => exact { resetMeetsTheInvariant s.build hs.build with }
  | softReset => exact softReset_inv hs
  | raised e x => exact raise_inv e x hs
  | readRefused e a => exact { raise_inv e a hs with }
  | accepted hd hr hb hc => exact accept_inv hs hd hr hb hc
  | errorsCleared v => exact clearErrors_inv v hs
  | pushedTe v hb hv hn => exact pushedTe_inv _ hs hb hn
  | pushedTd v hb hv hn => exact pushedTd_inv _ hs hb hn
  | wroteFs v hb => exact detectorRegs_inv _ _ _ _ _ hs hb
  | wroteFrame v hb => exact detectorRegs_inv _ _ _ _ _ hs hb
  | wroteLo v hb => exact detectorRegs_inv _ _ _ _ _ hs hb
  | wroteHi v hb => exact detectorRegs_inv _ _ _ _ _ hs hb
  | wroteWin v hb => exact detectorRegs_inv _ _ _ _ _ hs hb
  | performed hb hd hr hlt hu ht =>
    obtain ⟨t', ht', hinv⟩ := performed_inv hs hb hd hlt hu
    cases ht.symm.trans ht'
    exact hinv
  | completed hb hd hr hge => exact complete_inv hs hb hd hge
  | unchanged | answered | wroteIe | clearedDone => exact { hs with }

end Sys2Proof.Machine
end

section
/-! Every turn goes on from a state that meets the invariant (R260). -/

namespace Sys2Proof.Machine

variable {s : State}

/-- A word inside the visible extent can be read (R45, R64). -/
theorem memWord_answers (hs : Inv s) {name : MemName} {idx : Nat} (h : idx < extentOf s name) :
    ∃ v, memWord s name idx = .ok v := by
  have visible : ∀ {b : Bool} {n : Nat}, idx < (if b then n else 0) → b = true ∧ idx < n := by
    intro b n hn
    cases b <;> simp_all
  have plain : ∀ {m : Mem T}, written m idx = true → ∃ v, readElem name m idx = .ok v := by
    intro m hm
    obtain ⟨v, -, hv⟩ := readElem_of_written (name := name) hm
    exact ⟨v, hv⟩
  cases name with
  | tw =>
    obtain ⟨hv, hn⟩ := visible h
    obtain ⟨z, -, hz⟩ := readElem_of_written (name := .tw) (hs.haveTw hv (idx / 2) (by
      obtain ⟨hpow, hl, -⟩ := hs.teOn hv
      obtain ⟨l, hl⟩ := Nat.exists_eq_add_of_le' hl
      rw [hl, Nat.pow_succ] at hpow
      omega))
    exact ⟨_, by simp only [memWord, hz, bind, Except.bind]; rfl⟩
  | br =>
    obtain ⟨hv, hn⟩ := visible h
    obtain ⟨r, -, hr⟩ := readElem_of_written (name := .br) (hs.haveBr hv idx hn)
    exact ⟨_, by simp only [memWord, hr, bind, Except.bind]; rfl⟩
  | win => obtain ⟨hv, hn⟩ := visible h; exact plain (hs.haveWin hv idx hn)
  | inp => exact plain (hs.haveInp idx h)
  | work =>
    obtain ⟨hv, hn⟩ := visible h
    obtain ⟨z, -, hz⟩ := readElem_of_written (name := .work) (hs.haveWork hv (idx / 2) (by omega))
    exact ⟨_, by simp only [memWord, hz, bind, Except.bind]; rfl⟩
  | out => obtain ⟨hv, hn⟩ := visible h; exact plain (hs.haveOut hv idx hn)
  | dwin => obtain ⟨hv, hn⟩ := visible h; exact plain (hs.haveDwin hv idx hn)
  | dv => exact plain (hs.haveDv idx h)
  | top =>
    obtain ⟨hv, hn⟩ := visible h
    obtain ⟨e, -, he⟩ := readElem_of_written (name := .top) (hs.haveTop hv (idx / 2) (by omega))
    exact ⟨_, by simp only [memWord, he, bind, Except.bind]; rfl⟩

theorem hostRead_answers (hs : Inv s) (a : Addr) : ∃ t, hostRead a s = .ok t := by
  unfold hostRead
  split
  · exact ⟨_, rfl⟩
  · unfold hostReadMem
    split
    · exact ⟨_, rfl⟩
    · split
      · exact ⟨_, rfl⟩
      · split
        · exact ⟨_, rfl⟩
        · next hidx =>
          obtain ⟨v, hv⟩ := memWord_answers hs (Nat.lt_of_not_le hidx)
          rw [hv]
          exact ⟨_, rfl⟩

theorem hostWrite_goesOn (a : Addr) (v : Word) (s : State) : ∃ t, hostWrite a v s = .next t := by
  have hissue : ∀ c, ∃ t, issueWord c s = .next t := by
    intro c
    unfold issueWord
    split
    · next i _ =>
      obtain ⟨_, he⟩ | ⟨_, _, he⟩ | ⟨_, _, _, _, he⟩ | ⟨_, _, _, he⟩ := exec_cases i s <;> exact ⟨_, he⟩
    · exact ⟨_, rfl⟩
  have hreg : ∀ r, ∃ t, writeReg r a v s = .next t := by
    intro r
    cases r with
    | cmd => exact hissue _
    | _ => exact ⟨_, rfl⟩
  unfold hostWrite
  split
  · exact ⟨_, rfl⟩
  · split
    · exact ⟨_, rfl⟩
    · split
      · exact ⟨_, rfl⟩
      · split
        · exact ⟨_, rfl⟩
        · exact hreg _

theorem listStep_uop {i : Instr} {u : MicroOp} {t : State} (hlt : s.seq < listLen i s)
    (hu : uopAt i s s.seq = some u) (ht : perform u s = .ok t) : listStep i s = .ok { t with seq := t.seq + 1 } := by
  simp only [listStep, if_pos hlt, hu, ht]

theorem listStep_done {i : Instr} (hge : listLen i s ≤ s.seq) : listStep i s = .ok (complete i s) :=
  if_neg (Nat.not_lt.2 hge)

theorem sequencerTurn_goesOn (hs : Inv s) : ∃ t, sequencerTurn s = .next t := by
  unfold sequencerTurn
  split
  · next hb =>
    obtain ⟨i, hd, hrun⟩ := running_of_inv hs hb
    rw [sequencerStep_of_decode hd hrun.notReset]
    by_cases hlt : s.seq < listLen i s
    · obtain ⟨u, hu⟩ := uopAt_isSome hlt
      obtain ⟨t, ht, -⟩ := performed_inv hs hb hd hlt hu
      exact ⟨_, by rw [listStep_uop hlt hu ht]; rfl⟩
    · exact ⟨_, by rw [listStep_done (Nat.le_of_not_lt hlt)]; rfl⟩
  · exact ⟨_, rfl⟩

theorem agentTurn_goesOn (hs : Inv s) (e : Event) : ∃ t, agentTurn e s = .next t := by
  cases e with
  | resetAssert => exact ⟨_, rfl⟩
  | resetRelease => exact ⟨_, rfl⟩
  | sequencer =>
    simp only [agentTurn]
    split
    · exact ⟨_, rfl⟩
    · exact sequencerTurn_goesOn hs
  | hostRead a =>
    simp only [agentTurn]
    split
    · exact ⟨_, rfl⟩
    · obtain ⟨t, ht⟩ := hostRead_answers hs a
      exact ⟨t, by rw [ht]; rfl⟩
  | hostWrite a v =>
    simp only [agentTurn]
    split
    · exact ⟨_, rfl⟩
    · exact hostWrite_goesOn a v _

theorem step_goesOn (hs : Inv s) : ∃ t, step s = .next t := by
  cases hp : s.pending with
  | nil => rw [step_nil hp]; exact agentTurn_goesOn (s := takeTurn [] s) { hs with } _
  | cons e rest => rw [step_cons hp]; exact agentTurn_goesOn (s := takeTurn rest s) { hs with } _

theorem step_inv {t : State} (hs : Inv s) (h : step s = .next t) : Inv t :=
  step_keeps (P := Inv) (fun _ _ _ hu => { hu with }) (fun _ _ hu he => he.inv hu) hs h

/-- Settles O53: a step goes on because what its turn reads has been written, and every effect of a turn keeps the
invariant. -/
theorem everyStepGoesOnAndKeepsTheInvariant : Obligations.EveryStepGoesOnAndKeepsTheInvariant := by
  intro s hs
  obtain ⟨t, ht⟩ := step_goesOn hs
  exact ⟨t, ht, step_inv hs ht⟩

/-- A run of any length goes on from a state that meets the invariant. -/
theorem run_goesOn (k : Nat) (hs : Inv s) : ∃ t, run k s = .next t ∧ Inv t := by
  induction k generalizing s with
  | zero => exact ⟨s, rfl, hs⟩
  | succ k ih =>
    obtain ⟨t, ht, hinv⟩ := everyStepGoesOnAndKeepsTheInvariant s hs
    rw [run_succ_next ht]
    exact ih hinv

end Sys2Proof.Machine
end

section
/-! An engine left alone performs its list and completes (R234, R235, R237): its run as a fold of micro-operations. -/

namespace Sys2Proof.Machine

/-! ## What a micro-operation does not look at -/

/-- `s` with everything a micro-operation neither reads nor writes taken from `k`: flags, cursors, the error and
interrupt registers, the latch, the schedule and the port. -/
def withControl (k s : State) : State :=
  { s with
    busy := k.busy, unit := k.unit, teValid := k.teValid, workValid := k.workValid, outValid := k.outValid
    tdValid := k.tdValid, onsValid := k.onsValid, topValid := k.topValid, opc := k.opc, err := k.err
    ecode := k.ecode, einfo := k.einfo, ie := k.ie, ipDone := k.ipDone, seq := k.seq, teLog2n := k.teLog2n
    teIncnt := k.teIncnt, tdIncnt := k.tdIncnt, tdFrame := k.tdFrame, tdHi := k.tdHi, cur := k.cur
    pending := k.pending, rst := k.rst, rsp := k.rsp }

/-- The micro-operations of the construction commands, which read the size from the latch (R142, R151). -/
def readsLatch : MicroOp → Bool
  | .twgen _ | .brgen _ | .wingen _ | .dwgen _ => true
  | .wld _ | .bfly _ _ | .magk _ | .ons _ | .topclr | .cbeg _ | .cor _ _ | .peak _ => false

theorem map_bind {α β : Type} (x : Except Fault α) (g : α → Except Fault State) (f : State → β) :
    (x >>= g).map f = x >>= fun a => (g a).map f := by
  cases x <;> rfl

section

variable (k s : State)

@[simp] theorem withControl_build : (withControl k s).build = s.build := rfl
@[simp] theorem withControl_top : (withControl k s).top = s.top := rfl
@[simp] theorem withControl_topcnt : (withControl k s).topcnt = s.topcnt := rfl
@[simp] theorem withControl_sre : (withControl k s).sre = s.sre := rfl
@[simp] theorem withControl_sim : (withControl k s).sim = s.sim := rfl
@[simp] theorem withControl_pres : (withControl k s).pres = s.pres := rfl
@[simp] theorem withControl_pslope : (withControl k s).pslope = s.pslope := rfl
@[simp] theorem withControl_nanDraws : (withControl k s).nanDraws = s.nanDraws := rfl

theorem insertAmong_withControl (cnt : Nat) (str : T) (cand : BitVec 24) :
    insertAmong cnt str cand (withControl k s) = (insertAmong cnt str cand s).map (withControl k) := by
  simp only [insertAmong, map_bind]
  rfl

theorem insertTop_withControl (str : T) (cand : BitVec 24) :
    insertTop str cand (withControl k s) = (insertTop str cand s).map (withControl k) := by
  simp only [insertTop, withControl_build, withControl_top, withControl_topcnt, insertAmong_withControl]
  by_cases hfull : s.topcnt = s.build.slots
  · simp only [if_pos hfull, map_bind]
    refine bind_congr fun e => ?_
    split <;> rfl
  · simp only [if_neg hfull]

theorem reportPeak_withControl (i : Nat) (res : T) :
    reportPeak i res (withControl k s) = (reportPeak i res s).map (withControl k) := by
  simp only [reportPeak, withControl_build, withControl_pres, insertTop_withControl]
  cases s.build.peakReport <;> rfl

theorem doPeak_withControl (i : Nat) : doPeak i (withControl k s) = (doPeak i s).map (withControl k) := by
  simp only [doPeak, withControl_build, withControl_sre, withControl_sim, withControl_pres, withControl_pslope,
    withControl_nanDraws, reportPeak_withControl]
  split
  · cases reportPeak i (cabs s.build.flen s.nanDraws { re := s.sre, im := s.sim }) s <;> rfl
  · rfl

end

/-- A micro-operation does the same whatever the control part of the state is; those of the construction commands as
long as the latched size is the same. -/
theorem perform_withControl {k : State} {u : MicroOp} {s : State}
    (hlatch : readsLatch u = true → curArg k = curArg s) :
    perform u (withControl k s) = (perform u s).map (withControl k) := by
  have hcur : readsLatch u = true → curArg (withControl k s) = curArg s := hlatch
  cases u with
  | twgen j => simp only [perform, doTwgen, hcur rfl]; rfl
  | brgen j => simp only [perform, doBrgen, hcur rfl]; rfl
  | wingen j => simp only [perform, doWingen, hcur rfl]; rfl
  | dwgen j => simp only [perform, doDwgen, hcur rfl]; rfl
  | wld i => simp only [perform, doWld, map_bind]; rfl
  | bfly k q => simp only [perform, doBfly, map_bind]; rfl
  | magk k => simp only [perform, doMagk, map_bind]; rfl
  | ons n => simp only [perform, doOns, map_bind]; rfl
  | topclr => rfl
  | cbeg i => rfl
  | cor i n => simp only [perform, doCor, map_bind]; rfl
  | peak i => exact doPeak_withControl k s i

end Sys2Proof.Machine
end

section
/-! An engine left alone: each step is the sequencer's (log 12), so its run is its list performed in order and then the
completion step (R234, R235, R237, R238). -/

namespace Sys2Proof.Machine

/-! ## A list of micro-operations -/

/-- The micro-operations of a list one after another, stopping at the first stop. -/
def performAll (us : List MicroOp) (s : State) : Except Fault State := us.foldlM (fun t u => perform u t) s

@[simp] theorem performAll_nil (s : State) : performAll [] s = .ok s := rfl

theorem performAll_cons (u : MicroOp) (us : List MicroOp) (s : State) :
    performAll (u :: us) s = perform u s >>= performAll us := rfl

theorem performAll_append (us vs : List MicroOp) (s : State) :
    performAll (us ++ vs) s = performAll us s >>= performAll vs := List.foldlM_append

theorem performAll_frame {us : List MicroOp} {s t : State} (h : performAll us s = .ok t) : t = withEngine s t := by
  induction us generalizing s with
  | nil => cases h; rfl
  | cons u us ih =>
    obtain ⟨s', hs', h⟩ := bind_ok_iff.1 h
    have hrest := ih h
    rw [perform_frame hs'] at hrest
    exact hrest

theorem performAll_withControl {k : State} {us : List MicroOp} {s : State}
    (hlatch : ∀ u ∈ us, readsLatch u = true → curArg k = curArg s) :
    performAll us (withControl k s) = (performAll us s).map (withControl k) := by
  induction us generalizing s with
  | nil => rfl
  | cons u us ih =>
    rw [performAll_cons, performAll_cons, perform_withControl (hlatch u List.mem_cons_self), map_bind]
    cases ht : perform u s with
    | error e => rfl
    | ok t =>
      refine ih fun v hv hr => (hlatch v (List.mem_cons_of_mem u hv) hr).trans ?_
      rw [perform_frame ht]
      rfl

/-! ## Steps of an engine left alone -/

/-- Command `i` runs, and no turn is listed: the sequencer is left alone. -/
structure Alone (i : Instr) (s : State) : Prop where
  busy : s.busy = true
  rst : s.rst = false
  pending : s.pending = []
  latch : decode s.cur = .ok i
  notReset : i ≠ .reset

section

variable {i : Instr} {s t : State}

theorem Alone.step_eq (h : Alone i s) : step s = ofExcept (listStep i (takeTurn [] s)) := by
  rw [step_nil h.pending, agentTurn, if_neg (by simp [h.rst]), sequencerTurn, if_pos (by simp [h.busy]),
    sequencerStep_of_decode (s := takeTurn [] s) h.latch h.notReset]

theorem listLen_takeTurn (i : Instr) (es : List Event) (s : State) : listLen i (takeTurn es s) = listLen i s := by
  cases i <;> rfl

theorem uopAt_takeTurn (i : Instr) (es : List Event) (s : State) (p : Nat) :
    uopAt i (takeTurn es s) p = uopAt i s p := by cases i <;> rfl

theorem complete_takeTurn (i : Instr) (es : List Event) (s : State) :
    complete i (takeTurn es s) = takeTurn es (complete i s) := by cases i <;> rfl

/-- The state after a sequencer step whose micro-operation has left `t` (R234). -/
def advance (t : State) : State := takeTurn [] { t with seq := t.seq + 1 }

theorem advance_seq {u : MicroOp} (h : perform u s = .ok t) : (advance t).seq = s.seq + 1 := by
  rw [perform_frame h]
  rfl

theorem listLen_advance {u : MicroOp} (i : Instr) (h : perform u s = .ok t) :
    listLen i (advance t) = listLen i s := by
  rw [perform_frame h]
  cases i <;> rfl

theorem uopAt_advance {u : MicroOp} (i : Instr) (h : perform u s = .ok t) : uopAt i (advance t) = uopAt i s := by
  rw [perform_frame h]
  cases i <;> rfl

/-- One step on an unfinished list, R234. -/
theorem Alone.step_uop {u : MicroOp} (h : Alone i s) (hlt : s.seq < listLen i s) (hu : uopAt i s s.seq = some u) :
    step s = ofExcept ((perform u s).map advance) := by
  have hperform : perform u (takeTurn [] s) = (perform u s).map (withControl (takeTurn [] s)) :=
    perform_withControl (k := takeTurn [] s) (s := s) fun _ => rfl
  rw [h.step_eq, listStep, listLen_takeTurn, uopAt_takeTurn, takeTurn_seq, if_pos hlt, hu]
  simp only [hperform]
  cases ht : perform u s with
  | error e => rfl
  | ok t =>
    rw [perform_frame ht]
    simp only [Except.map]
    rfl

/-- The completion step, R235. -/
theorem Alone.step_done (h : Alone i s) (hge : listLen i s ≤ s.seq) : step s = .next (takeTurn [] (complete i s)) := by
  rw [h.step_eq, listStep_done (by rw [listLen_takeTurn]; exact hge), complete_takeTurn]
  rfl

/-- After a micro-operation the engine is still alone with the same command, one position further. -/
theorem Alone.next {u : MicroOp} (h : Alone i s) (ht : perform u s = .ok t) :
    Alone i (advance t) := by
  rw [perform_frame ht]
  exact ⟨h.busy, h.rst, rfl, h.latch, h.notReset⟩

/-- The run of an engine left alone is what is left of its list, and the completion step. -/
theorem Alone.run_eq {us : List MicroOp} (h : Alone i s)
    (hlist : (List.range' s.seq (listLen i s - s.seq)).map (uopAt i s) = us.map some) :
    run (us.length + 1) s = ofExcept ((performAll us s).map fun w => takeTurn [] (complete i w)) := by
  induction us generalizing s with
  | nil =>
    have hge : listLen i s ≤ s.seq := by
      have := congrArg List.length hlist
      simp at this
      omega
    rw [List.length_nil, run_succ_next (h.step_done hge)]
    rfl
  | cons u us ih =>
    have hlt : s.seq < listLen i s := by
      have := congrArg List.length hlist
      simp at this
      omega
    obtain ⟨n, hn⟩ : ∃ n, listLen i s - s.seq = n + 1 := ⟨listLen i s - s.seq - 1, by omega⟩
    rw [hn, List.range'_succ, List.map_cons, List.map_cons] at hlist
    obtain ⟨hu, hrest⟩ := List.cons.inj hlist
    have hstep := h.step_uop hlt hu
    rw [performAll_cons, map_bind]
    cases ht : perform u s with
    | error e => simp [run, hstep, ht, Except.map, bind, Except.bind]
    | ok t =>
      rw [ht] at hstep
      have hrest' : (List.range' (advance t).seq (listLen i (advance t) - (advance t).seq)).map
          (uopAt i (advance t)) = us.map some := by
        rw [advance_seq ht, listLen_advance i ht, uopAt_advance i ht, ← hrest]
        congr 2
        omega
      have hperform : performAll us (advance t) = (performAll us t).map (withControl (advance t)) :=
        performAll_withControl (k := advance t) (s := t) fun _ _ _ => rfl
      rw [List.length_cons, run_succ_next hstep]
      show run (us.length + 1) (advance t) = ofExcept ((performAll us t).map _)
      rw [ih (h.next ht) hrest', hperform]
      cases hw : performAll us t with
      | error e => rfl
      | ok w =>
        rw [performAll_frame hw]
        cases i <;> rfl

/-- With the invariant, a step on an unfinished list goes on to the next position. -/
theorem Alone.step_of_inv (hs : Inv s) (h : Alone i s) (hlt : s.seq < listLen i s) :
    ∃ t, step s = .next t ∧ Inv t ∧ Alone i t ∧ t.seq = s.seq + 1 ∧ listLen i t = listLen i s := by
  obtain ⟨u, hu⟩ := uopAt_isSome hlt
  obtain ⟨t, ht, -⟩ := performed_inv hs h.busy h.latch hlt hu
  have hstep := h.step_uop hlt hu
  rw [ht] at hstep
  exact ⟨_, hstep, step_inv hs hstep, h.next ht, advance_seq ht, listLen_advance i ht⟩

theorem Alone.run_of_inv {k : Nat} (hs : Inv s) (h : Alone i s) (hk : s.seq + k ≤ listLen i s) :
    ∃ t, run k s = .next t ∧ Alone i t ∧ t.seq = s.seq + k ∧ listLen i t = listLen i s := by
  induction k generalizing s with
  | zero => exact ⟨s, rfl, h, rfl, rfl⟩
  | succ k ih =>
    obtain ⟨s', hs', hinv, halone, hseq, hlen⟩ := h.step_of_inv hs (by omega)
    obtain ⟨t, ht, halone', hseq', hlen'⟩ := ih hinv halone (by omega)
    exact ⟨t, by rw [run_succ_next hs', ht], halone', by omega, by omega⟩

end

/-- Settles O23: the steps of the list one by one (`Alone.run_of_inv`), then the completion step. -/
theorem busyEngineCompletesItsList : Obligations.BusyEngineCompletesItsList := by
  intro s hs hb hrst hp
  obtain ⟨i, hd, hrun⟩ := running_of_inv hs hb
  have halone : Alone i s := ⟨hb, hrst, hp, hd, hrun.notReset⟩
  have hseq := hrun.seq
  obtain ⟨t, ht, htalone, htseq, htlen⟩ := halone.run_of_inv hs (k := listLen i s - s.seq) (by omega)
  refine ⟨i, takeTurn [] (complete i t), hd, ?_, rfl, rfl, rfl, fun k hk => ?_⟩
  · rw [run_add ht, run_succ_next (htalone.step_done (by omega))]
    rfl
  · obtain ⟨v, hv, hvalone, hvseq, -⟩ := halone.run_of_inv hs (k := k) (by omega)
    exact ⟨v, hv, hvalone.busy, hvseq⟩

end Sys2Proof.Machine
end

section
/-! Commands issued to a ready engine and waited for, as folds of their micro-operations (R230, R233, R235); one command
and the steps it is made of (R176, R208). -/

namespace Sys2Proof.Machine

/-! ## A command waited for -/

/-- The construction commands, whose completion changes the sizes (R146, R153). -/
def buildsTables : Instr → Bool
  | .teInit _ | .tdInit _ => true
  | .nop | .teWinld | .teStage _ | .teMag | .teXform | .tdOnset | .tdSweep | .tdDetect | .reset => false

theorem readsLatch_of_uopAt {i : Instr} {s : State} {p : Nat} {u : MicroOp} (hi : buildsTables i = false)
    (h : uopAt i s p = some u) : readsLatch u = false := by
  cases i with
  | teInit | tdInit => cases hi
  | nop | reset => cases h
  | teWinld | teStage | teMag | tdOnset => cases h; rfl
  | teXform =>
    cases h
    simp only [teXformUop]
    split_ifs <;> rfl
  | tdSweep =>
    cases h
    simp only [tdSweepUop]
    split_ifs <;> rfl
  | tdDetect =>
    cases h
    simp only [tdDetectUop, tdSweepUop]
    split_ifs <;> rfl

theorem ready_iff {s : State} : ready s = true ↔ s.busy = false ∧ s.rst = false ∧ s.pending = [] := by
  simp [ready, and_assoc]

/-- A command that may be issued in `s` and whose list is `us`. -/
structure Issuable (i : Instr) (us : List MicroOp) (s : State) : Prop where
  idle : s.busy = false
  rst : s.rst = false
  pending : s.pending = []
  word : decode (encode i) = .ok i
  notReset : i ≠ .reset
  check : acceptCheck i s = none
  list : (List.range (listLen i s)).map (uopAt i s) = us.map some

section

variable {i : Instr} {us : List MicroOp} {s : State}

theorem Issuable.length_eq (h : Issuable i us s) : us.length = listLen i s := by
  have := congrArg List.length h.list
  simpa using this.symm

theorem Issuable.exec_eq (h : Issuable i us s) : exec i s = .next (accept (encode i) s) := by
  rw [exec_eq_issue h.notReset, h.check, issue_accepted h.idle]

theorem Issuable.alone (h : Issuable i us s) : Alone i (accept (encode i) s) :=
  ⟨rfl, h.rst, h.pending, h.word, h.notReset⟩

/-- The run of an accepted command: its list, then its completion step. -/
theorem Issuable.run_eq (h : Issuable i us s) :
    run (us.length + 1) (accept (encode i) s) =
      ofExcept ((performAll us (accept (encode i) s)).map fun w => takeTurn [] (complete i w)) := by
  refine h.alone.run_eq ?_
  have hlen : listLen i (accept (encode i) s) = listLen i s := by cases i <;> rfl
  have huop : uopAt i (accept (encode i) s) = uopAt i s := by cases i <;> rfl
  rw [accept_seq, hlen, huop, Nat.sub_zero, ← List.range_eq_range']
  exact h.list

theorem Issuable.readsLatch (h : Issuable i us s) (hi : buildsTables i = false) :
    ∀ u ∈ us, Machine.readsLatch u = false := by
  intro u hu
  have hmem : some u ∈ us.map some := List.mem_map_of_mem hu
  rw [← h.list] at hmem
  obtain ⟨p, -, hp⟩ := List.mem_map.1 hmem
  exact readsLatch_of_uopAt hi hp

/-- The list of a command that builds no table does the same before its acceptance and after it. -/
theorem Issuable.performAll_accept (h : Issuable i us s) (hi : buildsTables i = false) :
    performAll us (accept (encode i) s) = (performAll us s).map (withControl (accept (encode i) s)) :=
  performAll_withControl (k := accept (encode i) s) (s := s) fun u hu hread =>
    absurd (hread.symm.trans (h.readsLatch hi u hu)) (by decide)

/-- From a state that meets the invariant the list of an issuable command answers. -/
theorem Issuable.performAll_answers (h : Issuable i us s) (hi : buildsTables i = false) (hs : Inv s) :
    ∃ w, performAll us s = .ok w := by
  obtain ⟨t, ht, -⟩ := run_goesOn (us.length + 1) (accept_inv hs h.word h.notReset h.idle h.check)
  rw [h.run_eq, h.performAll_accept hi] at ht
  cases hw : performAll us s with
  | ok w => exact ⟨w, rfl⟩
  | error e => rw [hw] at ht; cases ht

/-- What a command that builds no table leaves: the flags and cursors of its completion rule, the latch and the idle
engine of R235, and the memories its list has written. -/
def leaves (i : Instr) (s w : State) : State := withEngine (doneEffects i (idleAfter (encode i) s)) w

theorem complete_accepted {w : State} (hi : buildsTables i = false) (hpending : s.pending = [])
    (hw : w = withEngine s w) :
    takeTurn [] (complete i (withControl (accept (encode i) s) w)) = leaves i s w := by
  rw [hw, takeTurn, ← hpending]
  cases i with
  | teInit | tdInit => cases hi
  | _ => rfl

theorem Issuable.runCommand_eq {w : State} (h : Issuable i us s) (hi : buildsTables i = false)
    (hw : performAll us s = .ok w) : runCommand i s = .next (leaves i s w) := by
  have hrun : runCommand i s = run (us.length + 1) (accept (encode i) s) := by
    rw [runCommand, h.exec_eq, h.length_eq]
  rw [hrun, h.run_eq, h.performAll_accept hi, hw]
  exact congrArg _ (complete_accepted hi h.pending (performAll_frame hw))

theorem leaves_eq_withControl {y : State} (hi : buildsTables i = false) (hy : y = withEngine s y) :
    leaves i s y = withControl (doneEffects i (idleAfter (encode i) s)) y := by
  rw [hy]
  cases i with
  | teInit | tdInit => cases hi
  | _ => rfl

/-- A command whose list begins a longer one leaves a state in which the rest of that list does what it did. -/
theorem Issuable.runCommand_then {vs : List MicroOp} {w : State} (h : Issuable i us s) (hi : buildsTables i = false)
    (hvs : ∀ u ∈ vs, Machine.readsLatch u = false) (hw : performAll (us ++ vs) s = .ok w) :
    ∃ x, runCommand i s = .next (leaves i s x) ∧ performAll vs (leaves i s x) = .ok (leaves i s w) := by
  have hwhole := performAll_frame hw
  rw [performAll_append] at hw
  obtain ⟨x, hx, hw⟩ := bind_ok_iff.1 hw
  refine ⟨x, h.runCommand_eq hi hx, ?_⟩
  rw [leaves_eq_withControl hi (performAll_frame hx), leaves_eq_withControl hi hwhole, performAll_withControl, hw]
  · rfl
  · exact fun u hu hread => absurd (hread.symm.trans (hvs u hu)) (by decide)

end

theorem runCommands_cons {i : Instr} {is : List Instr} {s t : State} (h : runCommand i s = .next t) :
    runCommands (i :: is) s = runCommands is t := by
  rw [runCommands, h]

/-! ## The lists of the transform commands (R161, R165, R169, R174) -/

/-- The list of `TE.WINLD` for the size `n`, R161. -/
def wldList (n : Nat) : List MicroOp := (List.range n).map .wld

/-- The list of `TE.STAGE k` for `h` butterflies, R165. -/
def bflyList (h k : Nat) : List MicroOp := (List.range h).map (.bfly k)

/-- The list of `TE.MAG`, R169; `h` is half the size. -/
def magkList (h : Nat) : List MicroOp := (List.range (h + 1)).map .magk

/-- Positions of `l` rows of `h`, row by row. -/
theorem map_range_mul {α : Type} {h : Nat} (hpos : 0 < h) (f : Nat → Nat → α) (l : Nat) :
    (List.range (l * h)).map (fun p => f (p / h) (p % h)) =
      (List.range l).flatMap fun k => (List.range h).map (f k) := by
  induction l with
  | zero => simp
  | succ l ih =>
    rw [Nat.succ_mul, List.range_add, List.map_append, ih, List.range_succ, List.flatMap_append, List.flatMap_singleton,
      List.map_map]
    congr 1
    refine List.map_congr_left fun q hq => ?_
    have hq : q < h := List.mem_range.1 hq
    show f ((l * h + q) / h) ((l * h + q) % h) = f l q
    rw [Nat.mul_comm, Nat.mul_add_div hpos, Nat.mul_add_mod, Nat.div_eq_of_lt hq, Nat.mod_eq_of_lt hq, Nat.add_zero]

theorem teXform_list {s : State} (hpos : 0 < s.teN / 2) :
    (List.range (listLen .teXform s)).map (uopAt .teXform s) =
      (wldList s.teN ++ ((List.range s.teLog2n).flatMap (bflyList (s.teN / 2)) ++ magkList (s.teN / 2))).map some := by
  have hlen : listLen .teXform s = s.teN + (s.teLog2n * (s.teN / 2) + (s.teN / 2 + 1)) := by
    simp only [listLen, teXformLen]
    omega
  have hrows : (List.range s.teLog2n).flatMap (bflyList (s.teN / 2)) = _ :=
    (map_range_mul hpos MicroOp.bfly s.teLog2n).symm
  rw [hlen, List.range_add, List.range_add, hrows]
  simp only [List.map_append, List.map_map, wldList, magkList]
  congr 1
  · refine List.map_congr_left fun p hp => ?_
    simp [uopAt, teXformUop, List.mem_range.1 hp]
  · congr 1
    · refine List.map_congr_left fun p hp => ?_
      simp [uopAt, teXformUop, List.mem_range.1 hp]
    · refine List.map_congr_left fun p _ => ?_
      have hlate : ¬ s.teN + s.teLog2n * (s.teN / 2) + p < s.teN := by omega
      have hmag : s.teN + s.teLog2n * (s.teN / 2) + p - s.teN - s.teLog2n * (s.teN / 2) = p := by omega
      simp [uopAt, teXformUop, hlate, hmag]

theorem readsLatch_stages {ks : List Nat} {h : Nat} :
    ∀ u ∈ ks.flatMap (bflyList h) ++ magkList h, readsLatch u = false := by
  intro u hu
  rcases List.mem_append.1 hu with hu | hu
  · obtain ⟨k, -, hu⟩ := List.mem_flatMap.1 hu
    obtain ⟨q, -, rfl⟩ := List.mem_map.1 hu
    rfl
  · obtain ⟨k, -, rfl⟩ := List.mem_map.1 hu
    rfl

/-! ## `TE.XFORM` and its steps (R176) -/

theorem decode_encode_teStage {k : Nat} (hk : k < 2 ^ 24) : decode (encode (.teStage k)) = .ok (.teStage k) := by
  obtain ⟨hop, harg⟩ := Laws.EncodeFields.teStage k (by simpa [Instr.wf] using hk)
  simp [decode, hop, harg, Instr.op, Instr.arg]

theorem teMag_issuable {s : State} (hready : ready s = true) (hv : s.teValid = true) (hw : s.workValid = true) :
    Issuable .teMag (magkList (s.teN / 2)) s := by
  obtain ⟨idle, rst, pending⟩ := ready_iff.1 hready
  exact { idle, rst, pending, word := by decide, notReset := by decide
          check := by simp [acceptCheck, teMagCheck, hv, hw]
          list := by simp [magkList, listLen, teMagLen, uopAt, teMagUop] }

theorem teStage_issuable {s : State} {k : Nat} (hready : ready s = true) (hv : s.teValid = true)
    (hw : s.workValid = true) (hk : k < s.teLog2n) (hword : k < 2 ^ 24) :
    Issuable (.teStage k) (bflyList (s.teN / 2) k) s := by
  obtain ⟨idle, rst, pending⟩ := ready_iff.1 hready
  exact { idle, rst, pending, word := decode_encode_teStage hword, notReset := by simp
          check := by simp [acceptCheck, teStageCheck, hv, hw, hk]
          list := by simp [bflyList, listLen, teStageLen, uopAt, teStageUop] }

theorem teWinld_issuable {s : State} (hready : ready s = true) (hv : s.teValid = true) (hfull : s.teIncnt = s.teN) :
    Issuable .teWinld (wldList s.teN) s := by
  obtain ⟨idle, rst, pending⟩ := ready_iff.1 hready
  exact { idle, rst, pending, word := by decide, notReset := by decide
          check := by simp [acceptCheck, teWinldCheck, hv, hfull]
          list := by simp [wldList, listLen, teWinldLen, uopAt, teWinldUop] }

/-- The stages and the moduli as separate commands: what their lists do in one go, and `OUT_VALID`. -/
theorem runStages {ks : List Nat} {s w : State} (hready : ready s = true) (hv : s.teValid = true)
    (hwork : s.workValid = true) (hks : ∀ k ∈ ks, k < s.teLog2n ∧ k < 2 ^ 24)
    (hw : performAll (ks.flatMap (bflyList (s.teN / 2)) ++ magkList (s.teN / 2)) s = .ok w) :
    ∃ v, runCommands (ks.map Instr.teStage ++ [Instr.teMag]) s = .next v ∧
      { v with cur := 0 } = { leaves .teMag s w with cur := 0 } := by
  induction ks generalizing s w with
  | nil => exact ⟨_, runCommands_cons ((teMag_issuable hready hv hwork).runCommand_eq rfl hw), rfl⟩
  | cons k ks ih =>
    obtain ⟨hk, hword⟩ := hks k List.mem_cons_self
    rw [List.flatMap_cons, List.append_assoc] at hw
    obtain ⟨x, hx, hrest⟩ := (teStage_issuable hready hv hwork hk hword).runCommand_then rfl
      readsLatch_stages hw
    obtain ⟨hidle, hrst, hpending⟩ := ready_iff.1 hready
    obtain ⟨v, hv', hcur⟩ := ih (s := leaves (.teStage k) s x) (ready_iff.2 ⟨rfl, hrst, hpending⟩) hv hwork
      (fun j hj => hks j (List.mem_cons_of_mem k hj)) hrest
    exact ⟨v, by rw [List.map_cons, List.cons_append, runCommands_cons hx, hv'], hcur⟩

/-- Settles O18: both runs are the list of `TE.XFORM`, whose three parts are the lists of the separate commands. -/
theorem xformEqualsItsSteps : Obligations.XformEqualsItsSteps := by
  intro s hs hready hv hfull
  obtain ⟨hidle, hrst, hpending⟩ := ready_iff.1 hready
  obtain ⟨-, -, hmax⟩ := hs.teOn hv
  have htwo := hs.two_le_teN hv
  have hwhole : Issuable .teXform
      (wldList s.teN ++ ((List.range s.teLog2n).flatMap (bflyList (s.teN / 2)) ++ magkList (s.teN / 2))) s :=
    { idle := hidle, rst := hrst, pending := hpending, word := by decide, notReset := by decide
      check := by simp [acceptCheck, teXformCheck, hv, hfull]
      list := teXform_list (by omega) }
  obtain ⟨w, hw⟩ := hwhole.performAll_answers rfl hs
  obtain ⟨x, hx, hrest⟩ := (teWinld_issuable hready hv hfull).runCommand_then rfl readsLatch_stages hw
  have hsmall : s.build.log2nMax ≤ 23 := by
    have h := hs.build
    simp only [Build.wf, Bool.and_eq_true, decide_eq_true_eq] at h
    exact h.1.1.2
  obtain ⟨v, hv', hcur⟩ := runStages (s := leaves .teWinld s x) (ks := List.range s.teLog2n)
    (ready_iff.2 ⟨rfl, hrst, hpending⟩) hv rfl
    (fun k hk => ⟨List.mem_range.1 hk, by have := List.mem_range.1 hk; omega⟩) hrest
  exact ⟨leaves .teXform s w, v, hwhole.runCommand_eq rfl hw,
    by rw [List.append_assoc, List.singleton_append, runCommands_cons hx, hv'], hcur.symm⟩

/-! ## `TD.DETECT` and its steps (R208) -/

/-- The list of `TD.ONSET`, R191. -/
def onsList (s : State) : List MicroOp := (List.range (tdOnsetLen s)).map (tdOnsetUop s)

/-- The list of `TD.SWEEP`, R197. -/
def sweepList (s : State) : List MicroOp := (List.range (tdSweepLen s)).map (tdSweepUop s)

theorem tdDetect_list (s : State) :
    (List.range (listLen .tdDetect s)).map (uopAt .tdDetect s) = (onsList s ++ sweepList s).map some := by
  have hlen : listLen .tdDetect s = tdOnsetLen s + tdSweepLen s := rfl
  rw [hlen, List.range_add]
  simp only [List.map_append, List.map_map, onsList, sweepList]
  congr 1
  · refine List.map_congr_left fun p hp => ?_
    have hp : p < s.tdN - 1 := List.mem_range.1 hp
    simp [uopAt, tdDetectUop, tdOnsetUop, hp]
  · refine List.map_congr_left fun p _ => ?_
    simp [uopAt, tdDetectUop, tdOnsetLen]

theorem readsLatch_sweepList (s : State) : ∀ u ∈ sweepList s, readsLatch u = false := by
  intro u hu
  obtain ⟨p, -, rfl⟩ := List.mem_map.1 hu
  exact readsLatch_of_uopAt (i := .tdSweep) (s := s) (p := p) rfl rfl

theorem sweepArgsBad_eq {s : State} (hlo : s.tdLo ≠ 0) (hfs : finitePositive s.build.flen s.tdFs = true) :
    sweepArgsBad s = false := by
  rw [sweepArgsBad, beq_eq_false_iff_ne.2 hlo, hfs]
  rfl

theorem tdOnset_issuable {s : State} (hready : ready s = true) (hv : s.tdValid = true) (hons : s.onsValid = false)
    (hfull : s.tdIncnt = s.tdN) : Issuable .tdOnset (onsList s) s := by
  obtain ⟨idle, rst, pending⟩ := ready_iff.1 hready
  exact { idle, rst, pending, word := by decide, notReset := by decide
          check := by simp [acceptCheck, tdOnsetCheck, hv, hons, hfull]
          list := by simp [onsList, listLen, uopAt] }

theorem tdSweep_issuable {s : State} (hready : ready s = true) (hv : s.tdValid = true) (hons : s.onsValid = true)
    (hargs : sweepArgsBad s = false) : Issuable .tdSweep (sweepList s) s := by
  obtain ⟨idle, rst, pending⟩ := ready_iff.1 hready
  exact { idle, rst, pending, word := by decide, notReset := by decide
          check := by simp [acceptCheck, tdSweepCheck, hv, hons, hargs]
          list := by simp [sweepList, listLen, uopAt] }

theorem tdDetect_issuable {s : State} (hready : ready s = true) (hv : s.tdValid = true) (hons : s.onsValid = false)
    (hfull : s.tdIncnt = s.tdN) (hargs : sweepArgsBad s = false) :
    Issuable .tdDetect (onsList s ++ sweepList s) s := by
  obtain ⟨idle, rst, pending⟩ := ready_iff.1 hready
  exact { idle, rst, pending, word := by decide, notReset := by decide
          check := by simp [acceptCheck, tdDetectCheck, hv, hons, hfull, hargs]
          list := tdDetect_list s }

/-- Settles O22: both runs are the list of `TD.DETECT`, which is that of `TD.ONSET` and then that of `TD.SWEEP`. -/
theorem detectEqualsOnsetThenSweep : Obligations.DetectEqualsOnsetThenSweep := by
  intro s hs hready hv hons hfull hlo hfs
  obtain ⟨hidle, hrst, hpending⟩ := ready_iff.1 hready
  have hargs := sweepArgsBad_eq hlo hfs
  have hdetect := tdDetect_issuable hready hv hons hfull hargs
  obtain ⟨w, hw⟩ := hdetect.performAll_answers rfl hs
  have hrun := hdetect.runCommand_eq rfl hw
  have hsteps : listLen .tdDetect s + 1 = s.tdN + (s.tdHi.toNat - s.tdLo.toNat) * (s.tdN + 2) + 1 := by
    have hone := (hs.tdOn hv).1
    simp only [listLen, tdDetectLen, tdSweepLen, candidates]
    omega
  rw [runCommand, hdetect.exec_eq] at hrun
  simp only [hsteps] at hrun
  obtain ⟨x, hx, hrest⟩ := (tdOnset_issuable hready hv hons hfull).runCommand_then rfl (readsLatch_sweepList s) hw
  have hsweep : Issuable .tdSweep (sweepList s) (leaves .tdOnset s x) :=
    tdSweep_issuable (s := leaves .tdOnset s x) (ready_iff.2 ⟨rfl, hrst, hpending⟩) hv rfl hargs
  exact ⟨_, leaves .tdDetect s w, _, hdetect.exec_eq, hrun, rfl, rfl, rfl, rfl,
    (runCommands_cons hx).trans (runCommands_cons (hsweep.runCommand_eq rfl hrest)), rfl⟩

end Sys2Proof.Machine
end

section
/-! Host writes, register by register (R66, R68): a turn that writes a register of R23 does what the register's rule
says. -/

namespace Sys2Proof.Machine

/-! ## The turn of a host write -/

theorem step_hostWrite {s : State} {a : Addr} {v : Word} {rest : List Event} (hrst : s.rst = false)
    (hp : s.pending = .hostWrite a v :: rest) :
    step s = hostWrite a v { s with pending := rest, rsp := .written } := by
  rw [step_cons hp, agentTurn, if_neg (by simp [hrst])]
  rfl

/-- The addresses of R97 lead to the registers of R23. -/
theorem regAt_regAddr (r : Reg) : addrSpace (regAddr r) = 0 ∧ regAt (addrIdx (regAddr r)) = some r := by
  cases r <;> exact ⟨rfl, rfl⟩

section

variable {s : State} {r : Reg} {v : Word}

theorem hostWrite_regAddr (r : Reg) (v : Word) (s : State) :
    hostWrite (regAddr r) v s =
      if r.readOnly then .next (raise .acc (regAddr r) s)
      else if r.lockedWhileBusy && s.busy then .next (raise .busy (regAddr r) s)
      else writeReg r (regAddr r) v s := by
  obtain ⟨hspace, hreg⟩ := regAt_regAddr r
  simp only [hostWrite, hspace, hreg, ne_eq, not_true_eq_false, if_false]

theorem hostWrite_readOnly (hr : r.readOnly = true) :
    hostWrite (regAddr r) v s = .next (raise .acc (regAddr r) s) := by
  rw [hostWrite_regAddr, if_pos hr]

theorem hostWrite_locked (hr : r.lockedWhileBusy = true) (hb : s.busy = true) :
    hostWrite (regAddr r) v s = .next (raise .busy (regAddr r) s) := by
  have hro : r.readOnly = false := by cases r <;> trivial
  rw [hostWrite_regAddr, hro, hr, hb]
  rfl

/-- A register that is not read only, and not locked or the engine is idle, follows its own rule. -/
theorem hostWrite_writeReg (hr : r.readOnly = false) (hb : (r.lockedWhileBusy && s.busy) = false) :
    hostWrite (regAddr r) v s = writeReg r (regAddr r) v s := by
  rw [hostWrite_regAddr, hr, hb]
  rfl

end

/-! ## Bits of the written word -/

theorem extractLsb'_zero_eq_ofNat (n : Nat) (v : Word) : v.extractLsb' 0 n = BitVec.ofNat n v.toNat := by
  apply BitVec.eq_of_toNat_eq
  simp

theorem lowWord_eq_ofNat (v : Word) : lowWord v = BitVec.ofNat 32 v.toNat := extractLsb'_zero_eq_ofNat 32 v

theorem getLsbD_zero_eq_decide (v : Word) : v.getLsbD 0 = decide (v.toNat % 2 = 1) := by
  rw [BitVec.getLsbD, Nat.testBit_zero]

/-! ## The statements -/

/-- Settles O5: the write reaches the issue of R233 with the decoded word. -/
theorem stepRunsTheIssuedCommand : Obligations.StepRunsTheIssuedCommand := by
  intro s v rest i hrst hp hd
  rw [step_hostWrite hrst hp]
  refine (hostWrite_writeReg (r := .cmd) rfl rfl).trans ?_
  simp only [writeReg, issueWord, hd]

/-- Settles O35: the three kinds of place, each refused before any register's own rule. -/
theorem readOnlyPlacesRefuseWrites : Obligations.ReadOnlyPlacesRefuseWrites := by
  intro s a v rest hrst hp hplace
  rw [step_hostWrite hrst hp]
  obtain hspace | ⟨hspace, hnone⟩ | hmem := hplace
  · rw [hostWrite, if_pos hspace]
    rfl
  · simp only [hostWrite, hspace, hnone, ne_eq, not_true_eq_false, if_false]
    rfl
  · have hreg : ∃ r : Reg, a = regAddr r ∧ r.readOnly = true := by
      simp only [List.mem_cons, List.not_mem_nil, or_false] at hmem
      rcases hmem with h | h | h | h | h | h | h | h | h | h
      · exact ⟨.cap, h, rfl⟩
      · exact ⟨.status, h, rfl⟩
      · exact ⟨.ecode, h, rfl⟩
      · exact ⟨.einfo, h, rfl⟩
      · exact ⟨.seq, h, rfl⟩
      · exact ⟨.teN, h, rfl⟩
      · exact ⟨.teLog2n, h, rfl⟩
      · exact ⟨.teIncnt, h, rfl⟩
      · exact ⟨.tdN, h, rfl⟩
      · exact ⟨.tdIncnt, h, rfl⟩
    obtain ⟨r, rfl, hr⟩ := hreg
    rw [hostWrite_readOnly hr]
    rfl

theorem step_writeIe {s : State} {v : Word} {rest : List Event} (hrst : s.rst = false)
    (hp : s.pending = .hostWrite 0x06 v :: rest) :
    step s = .next { s with ie := v.extractLsb' 0 2, pending := rest, rsp := .written } := by
  rw [step_hostWrite hrst hp]
  exact hostWrite_writeReg (r := .ie) rfl rfl

theorem step_writeIp {s : State} {v : Word} {rest : List Event} (hrst : s.rst = false)
    (hp : s.pending = .hostWrite 0x07 v :: rest) :
    step s = .next { s with ipDone := s.ipDone && !v.getLsbD 0, pending := rest, rsp := .written } := by
  rw [step_hostWrite hrst hp]
  refine (hostWrite_writeReg (r := .ip) rfl rfl).trans ?_
  simp only [writeReg]
  cases v.getLsbD 0
  · simp
  · simp

/-- Settles O58. -/
theorem interruptRegistersTakeWrites : Obligations.InterruptRegistersTakeWrites := by
  intro s v rest hrst
  refine ⟨fun hp => ?_, fun hp => ?_⟩
  · rw [step_writeIe hrst hp, extractLsb'_zero_eq_ofNat]
  · have hbit : (!v.getLsbD 0) = decide (v.toNat % 2 = 0) := by
      rw [getLsbD_zero_eq_decide, ← decide_not]
      exact decide_eq_decide.2 Nat.mod_two_ne_one
    rw [step_writeIp hrst hp, hbit]

/-- Settles O36: the locked registers by the lock-out, `IE` and `IP` by their own rules. -/
theorem busyEngineLocksThePort : Obligations.BusyEngineLocksThePort := by
  intro s a v rest hrst hb hp
  refine ⟨fun hmem => ?_, fun ha => ?_, fun ha => ?_⟩
  · have hreg : ∃ r : Reg, a = regAddr r ∧ r.lockedWhileBusy = true := by
      simp only [List.mem_cons, List.not_mem_nil, or_false] at hmem
      rcases hmem with h | h | h | h | h | h | h
      · exact ⟨.tePush, h, rfl⟩
      · exact ⟨.tdPush, h, rfl⟩
      · exact ⟨.tdFs, h, rfl⟩
      · exact ⟨.tdFrame, h, rfl⟩
      · exact ⟨.tdLo, h, rfl⟩
      · exact ⟨.tdHi, h, rfl⟩
      · exact ⟨.tdCtrl, h, rfl⟩
    obtain ⟨r, rfl, hr⟩ := hreg
    rw [step_hostWrite hrst hp, hostWrite_locked (s := { s with pending := rest, rsp := .written }) hr hb]
    rfl
  · exact step_writeIe hrst (ha ▸ hp)
  · exact step_writeIp hrst (ha ▸ hp)

/-- Settles O38: each register by its own rule, the lock-out being off. -/
theorem detectorRegistersTakeWrites : Obligations.DetectorRegistersTakeWrites := by
  intro s a v rest hrst hb hp
  rw [step_hostWrite hrst hp]
  have hidle : ∀ r : Reg, r.readOnly = false → a = regAddr r →
      hostWrite a v { s with pending := rest, rsp := .written } =
        writeReg r a v { s with pending := rest, rsp := .written } := by
    rintro r hr rfl
    exact hostWrite_writeReg hr (by rw [hb, Bool.and_false])
  refine ⟨fun ha => ?_, fun ha => ?_, fun ha => ?_, fun ha => ?_, fun ha => ?_⟩
  · exact hidle .tdFs rfl ha
  · rw [hidle .tdFrame rfl ha, writeReg, lowWord_eq_ofNat]
  · rw [hidle .tdLo rfl ha, writeReg, extractLsb'_zero_eq_ofNat]
  · rw [hidle .tdHi rfl ha, writeReg, extractLsb'_zero_eq_ofNat]
  · rw [hidle .tdCtrl rfl ha, writeReg, getLsbD_zero_eq_decide]

/-- The flags a write to `ERR` can name are bits 8 to 1 (R261, R266). -/
theorem errMask_getLsbD {j : Nat} (hj : j < 32) : (0x000001FE : BitVec 32).getLsbD j = decide (1 ≤ j ∧ j ≤ 8) := by
  have h : ∀ k : Fin 32, (0x000001FE : BitVec 32).getLsbD k = decide (1 ≤ k.val ∧ k.val ≤ 8) := by decide
  exact h ⟨j, hj⟩

theorem clearErrors_getLsbD {j : Nat} (hj : j < 32) (v : Word) (s : State) :
    (clearErrors (lowWord v) s).err.getLsbD j =
      (s.err.getLsbD j && !(decide (1 ≤ j ∧ j ≤ 8) && v.getLsbD j)) := by
  have hlow : (lowWord v).getLsbD j = v.getLsbD j := by simp [lowWord, hj]
  rw [clearErrors_err, BitVec.getLsbD_and, BitVec.getLsbD_not, BitVec.getLsbD_and, hlow, errMask_getLsbD hj,
    decide_eq_true hj, Bool.true_and, Bool.and_comm (v.getLsbD j)]

/-- Settles O39: the record is cleared with the last flag and kept otherwise. -/
theorem errWriteClearsNamedFlags : Obligations.ErrWriteClearsNamedFlags := by
  intro s v rest hrst hp
  refine ⟨clearErrors (lowWord v) { s with pending := rest, rsp := .written }, ?_,
    fun j hj => clearErrors_getLsbD hj v _, fun hnone => ?_, fun hsome => ?_, rfl⟩
  · rw [step_hostWrite hrst hp]
    exact hostWrite_writeReg (r := .err) rfl rfl
  · exact ⟨if_pos hnone, if_pos hnone⟩
  · exact ⟨if_neg hsome, if_neg hsome⟩

end Sys2Proof.Machine
end

section
/-! The hard reset (R300), and what the registers read right after it (R44). -/

namespace Sys2Proof.Machine

/-- While the reset input is asserted a turn of the host or the sequencer is only taken (R300, log 10). -/
theorem agentTurn_asserted {e : Event} {s : State} (hrst : s.rst = true) (ha : e ≠ .resetAssert)
    (hr : e ≠ .resetRelease) : agentTurn e s = .next s := by
  cases e with
  | resetAssert => exact absurd rfl ha
  | resetRelease => exact absurd rfl hr
  | sequencer | hostRead | hostWrite => simp only [agentTurn, hrst, if_true]

/-- The state while the reset input is asserted, with the turns still to come. -/
def assertedState (b : Build) (draws : Nat) (es : List Event) : State :=
  { State.resetOf b with pending := es, rst := true, nanDraws := draws }

theorem step_assertedState {b : Build} {draws : Nat} {e : Event} {es : List Event} (he : e ≠ .resetRelease) :
    step (assertedState b draws (e :: es)) = .next (assertedState b draws es) := by
  rw [step_cons (s := assertedState b draws (e :: es)) rfl]
  by_cases ha : e = .resetAssert
  · subst ha
    rfl
  · rw [agentTurn_asserted rfl ha he]
    rfl

theorem run_assertedState {b : Build} {draws : Nat} {es : List Event} (rest : List Event)
    (hes : ∀ e ∈ es, e ≠ .resetRelease) :
    run es.length (assertedState b draws (es ++ rest)) = .next (assertedState b draws rest) := by
  induction es with
  | nil => rfl
  | cons e es ih =>
    rw [List.length_cons, List.cons_append, run_succ_next (step_assertedState (hes e List.mem_cons_self))]
    exact ih fun e' he' => hes e' (List.mem_cons_of_mem e he')

/-- Settles O43: the assertion gives `assertedState`, every turn before the release keeps it, and the release gives the
state of R44. -/
theorem hardResetGivesTheResetState : Obligations.HardResetGivesTheResetState := by
  refine ⟨fun s e rest hrst ha hr hp => ?_, fun s hrst hp => ?_, fun s es rest hes hp => ?_⟩
  · rw [step_cons hp, agentTurn_asserted (s := takeTurn rest s) hrst ha hr]
    rfl
  · rw [step_nil hp, agentTurn_asserted (s := takeTurn [] s) hrst (by simp) (by simp), takeTurn, ← hp]
  · have hassert : step s = .next (assertedState s.build s.nanDraws (es ++ .resetRelease :: rest)) := by
      rw [step_cons hp]
      rfl
    refine ⟨fun k hk hle => ?_, ?_⟩
    · obtain ⟨j, rfl⟩ := Nat.exists_eq_add_of_le' hk
      have hlen : (es.take j).length = j := List.length_take_of_le (by omega)
      have hrun := run_assertedState (b := s.build) (draws := s.nanDraws) (es := es.take j)
        (es.drop j ++ .resetRelease :: rest) fun e he => hes e (List.mem_of_mem_take he)
      rw [hlen, ← List.append_assoc, List.take_append_drop] at hrun
      exact ⟨_, by rw [run_succ_next hassert, hrun], rfl⟩
    · have hrun := run_assertedState (b := s.build) (draws := s.nanDraws) (.resetRelease :: rest) hes
      rw [show es.length + 2 = (es.length + 1) + 1 from rfl, run_succ_next hassert, run_add hrun]
      rfl

theorem statusWord_resetOf (b : Build) : statusWord (State.resetOf b) = 0x00000410 := by
  simp only [statusWord, State.resetOf, inFull, inEmpty, dvFull, dvEmpty]
  decide

theorem ipWord_resetOf (b : Build) : ipWord (State.resetOf b) = 0 := by
  simp only [ipWord, ipErr, State.resetOf]
  decide

theorem irq_resetOf (b : Build) : irq (State.resetOf b) = false := by
  simp [irq, ipWord_resetOf]

/-- Settles O42: the state of R44, field by field; `IP.ERR` is derived from `ERR`. -/
theorem resetStateReadsAsTheTable : Obligations.ResetStateReadsAsTheTable := by
  intro b
  refine ⟨statusWord_resetOf b, rfl, rfl, irq_resetOf b, fun r hr => ?_, fun m _ => ?_, rfl, rfl, rfl, rfl, rfl, rfl,
    rfl⟩
  · cases r with
    | ip => rw [regValue, ipWord_resetOf]; rfl
    | cap | status | tdCtrl => simp at hr
    | _ => rfl
  · cases m <;> rfl

end Sys2Proof.Machine
end

section
/-! The fields of `STATUS` (R25) and `CAP` (R24). -/

namespace Sys2Proof.Machine

/-- A word put together from two parts, as a number. -/
theorem toNat_append_eq {m n : Nat} (x : BitVec m) (y : BitVec n) :
    (x ++ y).toNat = x.toNat * 2 ^ n + y.toNat := by
  rw [BitVec.toNat_append, ← Nat.shiftLeft_add_eq_or_of_lt y.isLt, Nat.shiftLeft_eq]

theorem capWord_toNat {b : Build} (hb : b.wf = true) :
    (capWord b).toNat = b.log2nMax + b.log2ndMax * 2 ^ 5 + b.slots * 2 ^ 10 +
      (if b.flen = .w64 then 2 ^ 18 else 0) + (if b.peakReport = .previous then 2 ^ 19 else 0) := by
  simp only [Build.wf, Bool.and_eq_true, decide_eq_true_eq] at hb
  obtain ⟨⟨⟨-, hn⟩, hnd⟩, -, hslots⟩ := hb
  simp only [capWord, toNat_append_eq, BitVec.toNat_ofNat, BitVec.toNat_ofBool]
  have hflen : (b.flen == .w64).toNat = if b.flen = .w64 then 1 else 0 := by cases b.flen <;> rfl
  have hpeak : (b.peakReport == .previous).toNat = if b.peakReport = .previous then 1 else 0 := by
    cases b.peakReport <;> rfl
  rw [hflen, hpeak]
  split <;> split <;> omega

theorem statusWord_getLsbD (s : State) {j : Nat} (hj : j < 32) : (statusWord s).getLsbD j =
    if j = 0 then s.busy
    else if j = 1 then s.unit
    else if j = 2 then s.teValid
    else if j = 3 then inFull s
    else if j = 4 then inEmpty s
    else if j = 5 then s.workValid
    else if j = 6 then s.outValid
    else if j = 8 then s.tdValid
    else if j = 9 then dvFull s
    else if j = 10 then dvEmpty s
    else if j = 11 then s.onsValid
    else if j = 12 then s.topValid
    else if 16 ≤ j ∧ j ≤ 23 then s.opc.getLsbD (j - 16)
    else false := by
  simp only [statusWord, BitVec.getLsbD_append]
  interval_cases j <;> simp

/-- Settles O56: both registers are their fields put together. -/
theorem statusAndCapShowTheirFields : Obligations.StatusAndCapShowTheirFields :=
  ⟨fun s _ hj => statusWord_getLsbD s hj, fun _ hb => capWord_toNat hb⟩

end Sys2Proof.Machine
end

section
/-! Host reads (R60, R64, R67): what the port answers for a register, for a word of an element memory, and where there
is nothing to read. -/

namespace Sys2Proof.Machine

/-! ## The turn of a host read -/

theorem step_hostRead {s : State} {a : Addr} {rest : List Event} (hrst : s.rst = false)
    (hp : s.pending = .hostRead a :: rest) : step s = ofExcept (hostRead a (takeTurn rest s)) := by
  rw [step_cons hp, agentTurn, if_neg (by simp [hrst])]

theorem regValue_takeTurn (rest : List Event) (s : State) (r : Reg) :
    regValue (takeTurn rest s) r = regValue s r := rfl

/-! ## The cases of a host read -/

section

variable {s : State} {a : Addr}

theorem hostRead_reg {r : Reg} (hspace : addrSpace a = 0) (hr : regAt (addrIdx a) = some r) :
    hostRead a s = .ok (answer (regValue s r) s) := by
  rw [hostRead, if_pos hspace, hostReadReg, hr]

theorem hostRead_unmappedReg (hspace : addrSpace a = 0) (hnone : regAt (addrIdx a) = none) :
    hostRead a s = .ok (refuseRead .acc a s) := by
  rw [hostRead, if_pos hspace, hostReadReg, hnone]

theorem hostRead_memBusy (hspace : addrSpace a ≠ 0) (hb : s.busy = true) :
    hostRead a s = .ok (refuseRead .busy a s) := by
  rw [hostRead, if_neg hspace, hostReadMem, if_pos hb]

/-- An unmapped space has the extent 0, so that every read of it is beyond (R64). -/
theorem hostRead_beyond (hspace : addrSpace a ≠ 0) (hb : s.busy = false)
    (hidx : extent s (addrSpace a) ≤ addrIdx a) : hostRead a s = .ok (refuseRead .acc a s) := by
  rw [hostRead, if_neg hspace, hostReadMem, if_neg (by simp [hb])]
  cases hname : memOfSpace (addrSpace a) with
  | none => rfl
  | some name =>
    rw [extent, hname] at hidx
    exact if_pos hidx

theorem hostRead_word {name : MemName} {v : Word} (hspace : addrSpace a ≠ 0) (hb : s.busy = false)
    (hname : memOfSpace (addrSpace a) = some name) (hidx : addrIdx a < extentOf s name)
    (hv : memWord s name (addrIdx a) = .ok v) : hostRead a s = .ok (answer v s) := by
  simp only [hostRead, if_neg hspace, hostReadMem, hb, Bool.false_eq_true, if_false, hname,
    if_neg (Nat.not_le.2 hidx), hv]

/-- Only a mapped space has words inside its extent (R65). -/
theorem memOfSpace_of_lt_extent {space idx : Nat} (h : idx < extent s space) :
    ∃ name, memOfSpace space = some name ∧ idx < extentOf s name := by
  rw [extent] at h
  cases hname : memOfSpace space with
  | none => simp [hname] at h
  | some name => exact ⟨name, rfl, by simpa [hname] using h⟩

end

/-! ## Registers (R23, R67) -/

theorem regAt_beyond_table {idx : Nat} (h : 0x20 ≤ idx) : regAt idx = none := by
  obtain ⟨k, rfl⟩ := Nat.exists_eq_add_of_le' h
  rfl

/-- The indices of space 0 at which R23 lists no register. -/
theorem regAt_eq_none_iff (idx : Nat) :
    regAt idx = none ↔ idx ∈ [9, 10, 11, 12, 13, 14, 15, 0x14, 0x15, 0x16, 0x17] ∨ 0x20 ≤ idx := by
  have table : ∀ i : Fin 0x20, regAt i = none ↔ i.val ∈ [9, 10, 11, 12, 13, 14, 15, 0x14, 0x15, 0x16, 0x17] := by
    decide
  obtain hidx | hidx := Nat.lt_or_ge idx 0x20
  · rw [table ⟨idx, hidx⟩, or_iff_left (Nat.not_le.2 hidx)]
  · exact iff_of_true (regAt_beyond_table hidx) (.inr hidx)

theorem step_readReg {s : State} {a : Addr} {rest : List Event} {r : Reg} (hrst : s.rst = false)
    (hp : s.pending = .hostRead a :: rest) (hspace : addrSpace a = 0) (hr : regAt (addrIdx a) = some r) :
    step s = .next { s with pending := rest, rsp := .read (regValue s r) } := by
  rw [step_hostRead hrst hp, hostRead_reg hspace hr, regValue_takeTurn]
  rfl

/-- A register narrower than the port is read zero-extended. -/
theorem zeroExtend_ofNat (w n : Nat) : (BitVec.ofNat w n).zeroExtend 64 = BitVec.ofNat 64 (n % 2 ^ w) := by
  rw [BitVec.zeroExtend, ← BitVec.ofNat_toNat, BitVec.toNat_ofNat]

theorem zeroExtend_ofNat_of_lt {w n : Nat} (h : n < 2 ^ w) :
    (BitVec.ofNat w n).zeroExtend 64 = BitVec.ofNat 64 n := by
  rw [zeroExtend_ofNat, Nat.mod_eq_of_lt h]

theorem zeroExtend_ofBool (b : Bool) : (BitVec.ofBool b).zeroExtend 64 = if b then (1 : Word) else 0 := by
  cases b <;> rfl

/-- Settles O33: each line of the table is the value of one register, at the address of that register. -/
theorem registerReadsOnlyAnswer : Obligations.RegisterReadsOnlyAnswer := by
  intro s a rest hrst hp hspace
  refine ⟨fun r hr => step_readReg hrst hp hspace hr, regAt_eq_none_iff _, fun hnone => ?_, fun x hx => ?_⟩
  · rw [step_hostRead hrst hp, hostRead_unmappedReg hspace hnone]
    rfl
  · have hreg : ∃ r : Reg, a = regAddr r ∧ x = regValue s r := by
      rcases hx with ⟨ha, hx⟩ | ⟨ha, hx⟩ | ⟨ha, hx⟩ | ⟨ha, hx⟩ | ⟨ha, hx⟩ | ⟨ha, hx⟩ | ⟨ha, hx⟩ | ⟨ha, hx⟩ |
        ⟨ha, hx⟩ | ⟨ha, hx, hn⟩ | ⟨ha, hx, hn⟩ | ⟨ha, hx, hn⟩ | ⟨ha, hx⟩ | ⟨ha, hx, hn⟩ | ⟨ha, hx, hn⟩ | ⟨ha, hx⟩ |
        ⟨ha, hx⟩ | ⟨ha, hx⟩ | ⟨ha, hx⟩ | ⟨ha, hx⟩ | ⟨ha, hx⟩
      · exact ⟨.cap, ha, hx⟩
      · exact ⟨.status, ha, hx⟩
      · exact ⟨.cmd, ha, hx⟩
      · exact ⟨.err, ha, hx⟩
      · exact ⟨.ecode, ha, hx⟩
      · exact ⟨.einfo, ha, hx⟩
      · exact ⟨.ie, ha, hx⟩
      · exact ⟨.ip, ha, hx⟩
      · exact ⟨.seq, ha, hx.trans (zeroExtend_ofNat 32 s.seq).symm⟩
      · exact ⟨.teN, ha, hx.trans (zeroExtend_ofNat_of_lt hn).symm⟩
      · exact ⟨.teLog2n, ha, hx.trans (zeroExtend_ofNat_of_lt hn).symm⟩
      · exact ⟨.teIncnt, ha, hx.trans (zeroExtend_ofNat_of_lt hn).symm⟩
      · exact ⟨.tePush, ha, hx⟩
      · exact ⟨.tdN, ha, hx.trans (zeroExtend_ofNat_of_lt hn).symm⟩
      · exact ⟨.tdIncnt, ha, hx.trans (zeroExtend_ofNat_of_lt hn).symm⟩
      · exact ⟨.tdPush, ha, hx⟩
      · exact ⟨.tdFs, ha, hx⟩
      · exact ⟨.tdFrame, ha, hx⟩
      · exact ⟨.tdLo, ha, hx⟩
      · exact ⟨.tdHi, ha, hx⟩
      · exact ⟨.tdCtrl, ha, hx.trans (zeroExtend_ofBool s.tdWin).symm⟩
    obtain ⟨r, rfl, rfl⟩ := hreg
    exact step_readReg hrst hp hspace (regAt_regAddr r).2

/-! ## Element memories (R64) -/

/-- Settles O34: below the extent the invariant gives the word (`memWord_answers`). -/
theorem memoryReadsStayInTheVisibleExtent : Obligations.MemoryReadsStayInTheVisibleExtent := by
  intro s a rest hs hrst hp hspace
  rw [step_hostRead hrst hp]
  refine ⟨fun hb => ?_, fun hb hidx => ?_, fun hb hidx => ?_⟩
  · rw [hostRead_memBusy (s := takeTurn rest s) hspace hb]
    rfl
  · rw [hostRead_beyond (s := takeTurn rest s) hspace hb hidx]
    rfl
  · obtain ⟨name, hname, hlt⟩ := memOfSpace_of_lt_extent hidx
    obtain ⟨v, hv⟩ := memWord_answers hs hlt
    refine ⟨name, v, hname, hv, ?_⟩
    rw [hostRead_word (s := takeTurn rest s) hspace hb hname hlt hv]
    rfl

/-! ## The address map (R61, R62, R65) -/

section

variable {a : Addr} {space i : Nat}

theorem addrSpace_of_toNat (ha : a.toNat = space * 2 ^ 28 + i) (hi : i < 2 ^ 28) : addrSpace a = space := by
  have hlt := a.isLt
  rw [addrSpace, BitVec.extractLsb'_toNat, Nat.shiftRight_eq_div_pow]
  omega

theorem addrIdx_of_toNat (ha : a.toNat = space * 2 ^ 28 + i) (hi : i < 2 ^ 28) : addrIdx a = i := by
  rw [addrIdx, BitVec.extractLsb'_toNat, Nat.shiftRight_zero]
  omega

end

/-- The table of R65, space by space. -/
theorem extent_eq (s : State) (space : Nat) : extent s space =
    (if space = 0x1 ∧ s.teValid = true then s.teN
      else if space = 0x2 ∧ s.teValid = true then s.teN
      else if space = 0x3 ∧ s.teValid = true then s.teN / 2 + 1
      else if space = 0x4 then s.teIncnt
      else if space = 0x5 ∧ s.workValid = true then 2 * s.teN
      else if space = 0x6 ∧ s.outValid = true then s.teN / 2 + 1
      else if space = 0x8 ∧ s.tdValid = true then s.tdN / 2 + 1
      else if space = 0x9 then s.tdIncnt
      else if space = 0xA ∧ s.topValid = true then 2 * s.build.slots
      else 0) := by
  unfold extent
  fun_cases memOfSpace space with
  | case10 => simp_all
  | _ => simp [extentOf]

/-! ## The word an index shows (R62) -/

section

variable {s : State} {i : Nat} {v : Word}

/-- A word made from one element is read exactly when that element is. -/
theorem readElem_map_ok_iff {α : Type} {name : MemName} {m : Mem α} {k : Nat} {f : α → Word} :
    (do let x ← readElem name m k; .ok (f x) : Except Fault Word) = .ok v ↔
      ∃ x, memRead m k = some x ∧ v = f x := by
  cases hread : memRead m k with
  | none => simp [readElem, hread, bind, Except.bind]
  | some x => simp [readElem, hread, bind, Except.bind, eq_comm]

theorem memWord_tw_ok_iff : memWord s .tw i = .ok v ↔
    ∃ z, memRead s.tw (i / 2) = some z ∧ v = if i % 2 = 0 then z.re else z.im :=
  readElem_map_ok_iff

theorem memWord_br_ok_iff : memWord s .br i = .ok v ↔ ∃ r, memRead s.br i = some r ∧ v = BitVec.ofNat 64 r :=
  readElem_map_ok_iff

theorem memWord_work_ok_iff : memWord s .work i = .ok v ↔
    ∃ z, memRead s.work (i / 2) = some z ∧ v = if i % 2 = 0 then z.re else z.im :=
  readElem_map_ok_iff

theorem memWord_top_ok_iff : memWord s .top i = .ok v ↔
    ∃ e, memRead s.top (i / 2) = some e ∧ v = if i % 2 = 0 then e.str else e.cand.zeroExtend 64 :=
  readElem_map_ok_iff

end

/-- Settles O57: the extent is the table of R65 and the rest is O34, with the word read off the layout of R62. -/
theorem readsFollowTheAddressMap : Obligations.ReadsFollowTheAddressMap := by
  intro s a rest space i n hs hrst hb hp ha hi hspace hn
  obtain rfl := addrSpace_of_toNat ha hi
  obtain rfl := addrIdx_of_toNat ha hi
  rw [← extent_eq] at hn
  subst hn
  obtain ⟨-, hbeyond, hinside⟩ := memoryReadsStayInTheVisibleExtent s a rest hs hrst hp hspace
  refine ⟨hbeyond hb, fun hidx => ?_⟩
  obtain ⟨name, v, hname, hv, hstep⟩ := hinside hb hidx
  have shown {m : MemName} (hm : memOfSpace (addrSpace a) = some m) : memWord s m (addrIdx a) = .ok v := by
    obtain rfl : name = m := Option.some.inj (hname.symm.trans hm)
    exact hv
  refine ⟨v, hstep, fun h => ?_, fun h => ?_, fun h => ?_, fun h => ?_, fun h => ?_, fun h => ?_, fun h => ?_,
    fun h => ?_, fun h => ?_⟩
  · exact memWord_tw_ok_iff.1 (shown (by rw [h]; rfl))
  · exact memWord_br_ok_iff.1 (shown (by rw [h]; rfl))
  · exact readElem_ok_iff.1 (shown (m := .win) (by rw [h]; rfl))
  · exact readElem_ok_iff.1 (shown (m := .inp) (by rw [h]; rfl))
  · exact memWord_work_ok_iff.1 (shown (by rw [h]; rfl))
  · exact readElem_ok_iff.1 (shown (m := .out) (by rw [h]; rfl))
  · exact readElem_ok_iff.1 (shown (m := .dwin) (by rw [h]; rfl))
  · exact readElem_ok_iff.1 (shown (m := .dv) (by rw [h]; rfl))
  · exact memWord_top_ok_iff.1 (shown (by rw [h]; rfl))

end Sys2Proof.Machine
end

section
/-! The push ports (R73, R74): a push appends one datum at the cursor, or is refused. -/

namespace Sys2Proof.Machine

section

variable {s : State} {a : Addr} {v : Word}

theorem tePush_room (hv : s.teValid = true) (hn : s.teIncnt ≠ s.teN) :
    tePush a v s =
      { s with inp := memWrite s.inp s.teIncnt (truncT s.build.flen v), teIncnt := s.teIncnt + 1 } :=
  if_neg (by simp [hv, hn])

theorem tePush_noRoom (h : s.teValid = false ∨ s.teIncnt = s.teN) : tePush a v s = raise .ovf a s := if_pos h

theorem tdPush_room (hv : s.tdValid = true) (hn : s.tdIncnt ≠ s.tdN) :
    tdPush a v s =
      { s with dv := memWrite s.dv s.tdIncnt (truncT s.build.flen v), tdIncnt := s.tdIncnt + 1 } :=
  if_neg (by simp [hv, hn])

theorem tdPush_noRoom (h : s.tdValid = false ∨ s.tdIncnt = s.tdN) : tdPush a v s = raise .ovf a s := if_pos h

end

/-- The lock-out of R232 is off while idle: a register that is not read only follows its own rule. -/
theorem step_writeReg_idle {s : State} {r : Reg} {v : Word} {rest : List Event} (hr : r.readOnly = false)
    (hrst : s.rst = false) (hb : s.busy = false) (hp : s.pending = .hostWrite (regAddr r) v :: rest) :
    step s = writeReg r (regAddr r) v { s with pending := rest, rsp := .written } := by
  rw [step_hostWrite hrst hp]
  exact hostWrite_writeReg hr (by rw [hb, Bool.and_false])

/-- Settles O37: the write reaches the port's own rule, which asks for room. -/
theorem pushAppendsAtTheCursor : Obligations.PushAppendsAtTheCursor := by
  intro s a v rest hrst hb hp
  refine ⟨?_, ?_, ?_, ?_⟩
  · rintro rfl hv hn
    exact (step_writeReg_idle (r := .tePush) rfl hrst hb hp).trans (congrArg Host.Outcome.next (tePush_room hv hn))
  · rintro rfl hfull
    exact (step_writeReg_idle (r := .tePush) rfl hrst hb hp).trans (congrArg Host.Outcome.next (tePush_noRoom hfull))
  · rintro rfl hv hn
    exact (step_writeReg_idle (r := .tdPush) rfl hrst hb hp).trans (congrArg Host.Outcome.next (tdPush_room hv hn))
  · rintro rfl hfull
    exact (step_writeReg_idle (r := .tdPush) rfl hrst hb hp).trans (congrArg Host.Outcome.next (tdPush_noRoom hfull))

end Sys2Proof.Machine
end

section
/-! The encoding (R90 to R96): decoder and encoder agree, since both are the opcode column and the argument column of
R92, and a reserved word is refused by the port (R94). -/

namespace Sys2Proof.Machine

/-! ## The decoder as the two columns of R92 -/

/-- R91: a command is well-formed when its argument, 0 where there is none, fits the field. -/
theorem wf_iff_arg_lt {i : Instr} : i.wf = true ↔ i.arg < 2 ^ 24 := by
  cases i with
  | teInit n | teStage n | tdInit n => exact decide_eq_true_iff
  | nop | teWinld | teMag | teXform | tdOnset | tdSweep | tdDetect | reset => decide

section

variable {c : CmdWord} {i : Instr}

theorem decodeNoArg_of_zero (harg : (argField c).toNat = 0) : decodeNoArg c i = .ok i :=
  if_pos (BitVec.eq_of_toNat_eq harg)

/-- The converse of `fields_of_decode`. -/
theorem decode_of_fields (hop : opField c = i.op) (harg : (argField c).toNat = i.arg) : decode c = .ok i := by
  cases i with
  | teInit n | teStage n | tdInit n => simp [decode, hop, Instr.op, harg, Instr.arg]
  | nop | teWinld | teMag | teXform | tdOnset | tdSweep | tdDetect | reset =>
    simp [decode, hop, Instr.op, decodeNoArg_of_zero harg]

theorem opField_toNat (c : CmdWord) : (opField c).toNat = c.toNat / 2 ^ 24 := by
  have hfit : c.toNat / 2 ^ 24 < 2 ^ 8 := by omega
  rw [opField, BitVec.extractLsb'_toNat, Nat.shiftRight_eq_div_pow, Nat.mod_eq_of_lt hfit]

theorem argField_toNat (c : CmdWord) : (argField c).toNat = c.toNat % 2 ^ 24 := by
  rw [argField, BitVec.extractLsb'_toNat, Nat.shiftRight_zero]

theorem decode_eq_ok_iff : decode c = .ok i ↔ c.toNat / 2 ^ 24 = i.op.toNat ∧ c.toNat % 2 ^ 24 = i.arg := by
  rw [← opField_toNat, ← argField_toNat, BitVec.toNat_inj]
  exact ⟨fields_of_decode, fun ⟨hop, harg⟩ => decode_of_fields hop harg⟩

/-- The rows of R92: three opcodes with any argument, eight with argument 0. -/
theorem exists_instr_iff {op arg : Nat} : (∃ i : Instr, op = i.op.toNat ∧ arg = i.arg) ↔
    op ∈ [0x01, 0x03, 0x11] ∨ op ∈ [0x00, 0x02, 0x04, 0x05, 0x12, 0x13, 0x14, 0x7F] ∧ arg = 0 := by
  constructor
  · rintro ⟨i, rfl, rfl⟩
    cases i with
    | teInit n | teStage n | tdInit n => exact .inl (by simp [Instr.op])
    | nop | teWinld | teMag | teXform | tdOnset | tdSweep | tdDetect | reset => exact .inr (by decide)
  · simp only [List.mem_cons, List.not_mem_nil, or_false]
    rintro ((rfl | rfl | rfl) | ⟨rfl | rfl | rfl | rfl | rfl | rfl | rfl | rfl, rfl⟩)
    · exact ⟨.teInit arg, rfl, rfl⟩
    · exact ⟨.teStage arg, rfl, rfl⟩
    · exact ⟨.tdInit arg, rfl, rfl⟩
    · exact ⟨.nop, rfl, rfl⟩
    · exact ⟨.teWinld, rfl, rfl⟩
    · exact ⟨.teMag, rfl, rfl⟩
    · exact ⟨.teXform, rfl, rfl⟩
    · exact ⟨.tdOnset, rfl, rfl⟩
    · exact ⟨.tdSweep, rfl, rfl⟩
    · exact ⟨.tdDetect, rfl, rfl⟩
    · exact ⟨.reset, rfl, rfl⟩

theorem decode_error_iff : (∃ e, decode c = .error e) ↔ ¬ ∃ i, decode c = .ok i := by
  cases decode c with
  | ok i => simp
  | error e => simp

end

/-! ## The issue of a reserved word (R94) -/

section

variable {c : CmdWord} {e : DecodeError} {s : State}

theorem issueWord_reserved_idle (hd : decode c = .error e) (hidle : s.busy = false) :
    issueWord c s = .next (raise .opc c s) := by
  simp [issueWord, hd, hidle]

theorem issueWord_reserved_busy (hd : decode c = .error e) (hbusy : s.busy = true) :
    issueWord c s = .next (raise .busy c s) := by
  simp [issueWord, hd, hbusy]

end

/-! ## The statements -/

/-- Settles O1: the fields of the encoding are the command's opcode and, as it fits, its argument. -/
theorem decodeOfEncodeIsTheCommand : Obligations.DecodeOfEncodeIsTheCommand := by
  intro i hwf
  obtain ⟨hop, harg⟩ := Laws.EncodeFields.fields i.op i.arg (wf_iff_arg_lt.1 hwf)
  exact decode_of_fields hop harg

/-- Settles O2: the argument comes from a 24-bit field, and the two fields make up the word. -/
theorem encodeOfDecodeIsTheWord : Obligations.EncodeOfDecodeIsTheWord := by
  intro c i hd
  obtain ⟨-, harg⟩ := fields_of_decode hd
  exact ⟨wf_iff_arg_lt.2 (harg ▸ (argField c).isLt), encode_eq_of_decode hd⟩

/-- Settles O3: each command's clause is `decode_eq_ok_iff` at that command, and the words left over are RESERVED. -/
theorem decoderFollowsTheOpcodeMap : Obligations.DecoderFollowsTheOpcodeMap := by
  intro c
  have withArg {i : Instr} : decode c = .ok i ↔ c.toNat / 2 ^ 24 = i.op.toNat ∧ i.arg = c.toNat % 2 ^ 24 :=
    decode_eq_ok_iff.trans (and_congr_right' eq_comm)
  have hnop : decode c = .ok .nop ↔ c.toNat / 2 ^ 24 = 0 ∧ c.toNat % 2 ^ 24 = 0 := decode_eq_ok_iff
  refine ⟨hnop.trans (by omega), fun _ => withArg, decode_eq_ok_iff, fun _ => withArg, decode_eq_ok_iff,
    decode_eq_ok_iff, fun _ => withArg, decode_eq_ok_iff, decode_eq_ok_iff, decode_eq_ok_iff, decode_eq_ok_iff, ?_⟩
  rw [decode_error_iff]
  simp only [decode_eq_ok_iff, exists_instr_iff, List.mem_cons, List.not_mem_nil, or_false]
  omega

/-- Settles O6: the write reaches the issue of R233, which finds no command in the word. -/
theorem reservedWordIsRefused : Obligations.ReservedWordIsRefused := by
  intro s v rest e hrst hp hd
  have hstep : step s = issueWord (lowWord v) { s with pending := rest, rsp := .written } :=
    (step_hostWrite hrst hp).trans (hostWrite_writeReg (r := .cmd) rfl rfl)
  constructor
  · intro hidle
    exact hstep.trans (issueWord_reserved_idle hd hidle)
  · intro hbusy
    exact hstep.trans (issueWord_reserved_busy hd hbusy)

/-- Settles O4: the quotient and the remainder of each word are the row of R92. -/
theorem sampleWordsDecode : Obligations.SampleWordsDecode := by
  refine ⟨?_, ?_, ?_, ?_, ?_, ?_, ?_⟩ <;> exact decode_eq_ok_iff.2 ⟨rfl, rfl⟩

end Sys2Proof.Machine
end

section
/-! The fields of a bit pattern (R110): a pattern is a sign and magnitude bits, which say together what it denotes. -/

namespace Sys2Proof.Machine

/-- The sign bit of a pattern. -/
def signBit (f : Flen) (w : T) : Bool := decide (w.toNat / 2 ^ (flenBits f - 1) % 2 = 1)

/-- The exponent and fraction fields of a pattern as one number. -/
def magBits (f : Flen) (w : T) : Nat := w.toNat % 2 ^ (flenBits f - 1)

/-- The integer significand behind finite magnitude bits: the fraction field, with the hidden bit of a normal number. -/
def significand (f : Flen) (n : Nat) : Nat :=
  if n < 2 ^ fracBits f then n else n % 2 ^ fracBits f + 2 ^ fracBits f

/-- Reading a pattern by its sign and its magnitude bits. -/
theorem unpack_eq (f : Flen) (w : T) : unpack f w =
    if magBits f w < infPattern f then
      .fin (signBit f w) (significand f (magBits f w)) (expMin f + (magBits f w / 2 ^ fracBits f - 1 : Nat))
    else if magBits f w = infPattern f then .inf (signBit f w) else .nan := by
  have hfrac : w.toNat % 2 ^ fracBits f = magBits f w % 2 ^ fracBits f := by
    cases f <;> simp only [magBits, fracBits, flenBits] <;> omega
  have hex : w.toNat / 2 ^ fracBits f % 2 ^ expBits f = magBits f w / 2 ^ fracBits f := by
    cases f <;> simp only [magBits, fracBits, expBits, flenBits] <;> omega
  have hmag : magBits f w < 2 ^ expBits f * 2 ^ fracBits f := by
    cases f <;> exact Nat.mod_lt _ (by decide)
  have hexp : 2 ≤ 2 ^ expBits f := by cases f <;> decide
  have hone : 0 < 2 ^ fracBits f := Nat.two_pow_pos _
  have htop : magBits f w / 2 ^ fracBits f = 2 ^ expBits f - 1 ↔ infPattern f ≤ magBits f w := by
    have hlt := Nat.div_lt_of_lt_mul (Nat.mul_comm (2 ^ expBits f) _ ▸ hmag)
    rw [infPattern, ← Nat.le_div_iff_mul_le hone]
    omega
  have hdiv := Nat.div_add_mod (magBits f w) (2 ^ fracBits f)
  have hsign : decide (w.toNat / 2 ^ (flenBits f - 1) % 2 = 1) = signBit f w := rfl
  simp only [unpack, hfrac, hex, htop, hsign]
  by_cases hfin : magBits f w < infPattern f
  · have hlow : magBits f w / 2 ^ fracBits f = 0 ↔ magBits f w < 2 ^ fracBits f := Nat.div_eq_zero_iff_lt hone
    rw [if_neg (Nat.not_le.2 hfin), if_pos hfin, significand]
    by_cases hsub : magBits f w < 2 ^ fracBits f
    · simp [hlow.2 hsub, hsub, Nat.mod_eq_of_lt hsub]
    · simp [hlow, hsub]
  · rw [if_pos (Nat.not_lt.1 hfin), if_neg hfin]
    have hquot := htop.2 (Nat.not_lt.1 hfin)
    have hinf : magBits f w % 2 ^ fracBits f = 0 ↔ magBits f w = infPattern f := by
      rw [hquot] at hdiv
      rw [infPattern, Nat.mul_comm]
      omega
    simp only [hinf]

section

variable {f : Flen} {w : T}

theorem unpack_finite (h : magBits f w < infPattern f) : unpack f w =
    .fin (signBit f w) (significand f (magBits f w)) (expMin f + (magBits f w / 2 ^ fracBits f - 1 : Nat)) := by
  rw [unpack_eq, if_pos h]

theorem unpack_eq_inf_iff {s : Bool} : unpack f w = .inf s ↔ signBit f w = s ∧ magBits f w = infPattern f := by
  rw [unpack_eq]
  split_ifs with hfin hinf
  · simp [Nat.ne_of_lt hfin]
  · simp [hinf]
  · simp [hinf]

theorem isNaN_iff : isNaN f w = true ↔ infPattern f < magBits f w := by
  rw [isNaN, decide_eq_true_eq, unpack_eq]
  split_ifs with hfin hinf
  · simp [Nat.le_of_lt hfin]
  · simp [hinf]
  · simp
    omega

/-- A finite pattern, the sign and the magnitude behind what it denotes. -/
theorem finite_of_unpack {s : Bool} {m : Nat} {e : Int} (h : unpack f w = .fin s m e) :
    magBits f w < infPattern f ∧ signBit f w = s ∧ significand f (magBits f w) = m ∧
      expMin f + (magBits f w / 2 ^ fracBits f - 1 : Nat) = e := by
  rw [unpack_eq] at h
  split_ifs at h with hfin
  simpa [hfin] using h

theorem significand_eq_zero_iff {n : Nat} : significand f n = 0 ↔ n = 0 := by
  have hone : 0 < 2 ^ fracBits f := Nat.two_pow_pos _
  unfold significand
  split_ifs <;> omega

end

/-! ## A pattern from its fields -/

section

variable {f : Flen} {neg : Bool} {mag : Nat}

theorem packT_toNat (h : mag ≤ infPattern f) :
    (packT f neg mag).toNat = cond neg (2 ^ (flenBits f - 1)) 0 + mag := by
  have hinf := infPattern_lt f
  rw [packT, BitVec.toNat_ofNat, Nat.mod_eq_of_lt]
  cases f <;> cases neg <;> simp only [flenBits, cond_true, cond_false] at hinf ⊢ <;> omega

theorem signBit_packT (h : mag ≤ infPattern f) : signBit f (packT f neg mag) = neg := by
  have hmag : mag < 2 ^ (flenBits f - 1) := lt_of_le_of_lt h (infPattern_lt f)
  rw [signBit, packT_toNat h]
  cases neg with
  | false => simp [Nat.div_eq_of_lt hmag]
  | true => simp [Nat.add_div_left _ (Nat.two_pow_pos (flenBits f - 1)), Nat.div_eq_of_lt hmag]

theorem magBits_packT (h : mag ≤ infPattern f) : magBits f (packT f neg mag) = mag := by
  have hmag : mag < 2 ^ (flenBits f - 1) := lt_of_le_of_lt h (infPattern_lt f)
  rw [magBits, packT_toNat h]
  cases neg <;> simp [Nat.mod_eq_of_lt hmag]

/-- The last bit is a magnitude bit. -/
theorem packT_toNat_mod_two (h : mag ≤ infPattern f) : (packT f neg mag).toNat % 2 = mag % 2 := by
  rw [packT_toNat h]
  cases f <;> cases neg <;> simp only [flenBits, cond_true, cond_false] <;> omega

/-- A datum of `FLEN` bits is its two fields put together. -/
theorem packT_fields {w : T} (h : fits f w = true) : packT f (signBit f w) (magBits f w) = w := by
  have hlt := fits_iff.1 h
  apply BitVec.eq_of_toNat_eq
  rw [packT, BitVec.toNat_ofNat, signBit, magBits]
  by_cases hs : w.toNat / 2 ^ (flenBits f - 1) % 2 = 1
  · rw [decide_eq_true hs]
    cases f <;> simp only [flenBits, cond_true] at hlt hs ⊢ <;> omega
  · rw [decide_eq_false hs]
    cases f <;> simp only [flenBits, cond_false] at hlt hs ⊢ <;> omega

theorem unpack_packT_finite (h : mag < infPattern f) : unpack f (packT f neg mag) =
    .fin neg (significand f mag) (expMin f + (mag / 2 ^ fracBits f - 1 : Nat)) := by
  rw [unpack_finite (by rwa [magBits_packT h.le]), signBit_packT h.le, magBits_packT h.le]

theorem toNat_lt_of_signBit {w : T} (h : fits f w = true) (hs : signBit f w = false) :
    w.toNat < 2 ^ (flenBits f - 1) := by
  have hlt := fits_iff.1 h
  rw [signBit, decide_eq_false_iff_not] at hs
  cases f <;> simp only [flenBits] at hlt hs ⊢ <;> omega

end

theorem infPattern_pos (f : Flen) : 0 < infPattern f := by cases f <;> decide

theorem unpack_infT (f : Flen) (s : Bool) : unpack f (infT f s) = .inf s :=
  unpack_eq_inf_iff.2 ⟨signBit_packT le_rfl, magBits_packT le_rfl⟩

theorem unpack_zeroT (f : Flen) (s : Bool) : unpack f (zeroT f s) = .fin s 0 (expMin f) := by
  rw [zeroT, unpack_packT_finite (infPattern_pos f)]
  simp [significand]

@[simp] theorem zeroT_false (f : Flen) : zeroT f false = 0 := by cases f <;> rfl

/-! ## The sign inverted -/

/-- What a pattern denotes once its sign is inverted. -/
def FVal.neg : FVal → FVal
  | .nan => .nan
  | .inf s => .inf (!s)
  | .fin s m e => .fin (!s) m e

theorem signBit_eq_getLsbD (f : Flen) (w : T) : signBit f w = w.getLsbD (flenBits f - 1) := by
  rw [signBit, BitVec.getLsbD, Nat.testBit_eq_decide_div_mod_eq]

theorem unpack_negT (f : Flen) (w : T) : unpack f (negT f w) = (unpack f w).neg := by
  have hsign : signBit f (negT f w) = !signBit f w := by
    simp only [signBit_eq_getLsbD, negT, BitVec.getLsbD_xor]
    cases f <;> simp [flenBits]
  have hmag : magBits f (negT f w) = magBits f w := by
    have hbit : 2 ^ (flenBits f - 1) % 2 ^ 64 = 2 ^ (flenBits f - 1) := by cases f <;> rfl
    rw [magBits, negT, BitVec.toNat_xor, BitVec.toNat_ofNat, hbit, Nat.xor_mod_two_pow, Nat.mod_self, Nat.xor_zero,
      magBits]
  rw [unpack_eq, unpack_eq, hsign, hmag]
  split_ifs <;> rfl

end Sys2Proof.Machine
end

section
/-! The operations case by case (R111, R113, R115, R116): what each answers for the values its operands denote. -/

namespace Sys2Proof.Machine

/-! ## Addition and subtraction -/

/-- The exact sum of two finite numbers over the smaller of their units. -/
def alignedSum (s : Bool) (m : Nat) (x : Int) (t : Bool) (n : Nat) (y : Int) : Int :=
  signed s (m * 2 ^ (x - min x y).toNat) + signed t (n * 2 ^ (y - min x y).toNat)

section

variable {f : Flen} {a b : T} (d : Nat) {s t : Bool} {m n : Nat} {x y : Int}

theorem fadd_nan_right (h : unpack f b = .nan) : fadd f d a b = quietNaN f d := by
  unfold fadd
  rw [h]
  cases unpack f a <;> rfl

theorem fadd_inf_inf (ha : unpack f a = .inf s) (hb : unpack f b = .inf t) :
    fadd f d a b = if s = t then infT f s else quietNaN f d := by
  unfold fadd
  rw [ha, hb]

theorem fadd_inf_fin (ha : unpack f a = .inf s) (hb : unpack f b = .fin t n y) : fadd f d a b = infT f s := by
  unfold fadd
  rw [ha, hb]

theorem fadd_fin_inf (ha : unpack f a = .fin s m x) (hb : unpack f b = .inf t) : fadd f d a b = infT f t := by
  unfold fadd
  rw [ha, hb]

theorem fadd_fin_fin (ha : unpack f a = .fin s m x) (hb : unpack f b = .fin t n y) :
    fadd f d a b = if alignedSum s m x t n y = 0 then zeroT f (s && t)
      else packT f (decide (alignedSum s m x t n y < 0))
        (roundMag f (alignedSum s m x t n y).natAbs (min x y) false) := by
  unfold fadd
  rw [ha, hb]
  rfl

theorem unpack_negT_nan (h : unpack f b = .nan) : unpack f (negT f b) = .nan := by
  rw [unpack_negT, h, FVal.neg]

theorem unpack_negT_inf (h : unpack f b = .inf t) : unpack f (negT f b) = .inf (!t) := by
  rw [unpack_negT, h, FVal.neg]

theorem unpack_negT_fin (h : unpack f b = .fin t n y) : unpack f (negT f b) = .fin (!t) n y := by
  rw [unpack_negT, h, FVal.neg]

/-! ## Multiplication -/

theorem fmul_nan_right (h : unpack f b = .nan) : fmul f d a b = quietNaN f d := by
  unfold fmul
  rw [h]
  cases unpack f a <;> rfl

theorem fmul_inf_inf (ha : unpack f a = .inf s) (hb : unpack f b = .inf t) : fmul f d a b = infT f (s ^^ t) := by
  unfold fmul
  rw [ha, hb]

theorem fmul_inf_fin (ha : unpack f a = .inf s) (hb : unpack f b = .fin t n y) :
    fmul f d a b = if n = 0 then quietNaN f d else infT f (s ^^ t) := by
  unfold fmul
  rw [ha, hb]

theorem fmul_fin_inf (ha : unpack f a = .fin s m x) (hb : unpack f b = .inf t) :
    fmul f d a b = if m = 0 then quietNaN f d else infT f (s ^^ t) := by
  unfold fmul
  rw [ha, hb]

theorem fmul_fin_fin (ha : unpack f a = .fin s m x) (hb : unpack f b = .fin t n y) :
    fmul f d a b = packT f (s ^^ t) (roundMag f (m * n) (x + y) false) := by
  unfold fmul
  rw [ha, hb]

/-! ## Division and square root -/

theorem fdiv_nan_left (h : unpack f a = .nan) : fdiv f d a b = quietNaN f d := by
  unfold fdiv
  rw [h]

theorem fdiv_nan_right (h : unpack f b = .nan) : fdiv f d a b = quietNaN f d := by
  unfold fdiv
  rw [h]
  cases unpack f a <;> rfl

theorem fdiv_inf_inf (ha : unpack f a = .inf s) (hb : unpack f b = .inf t) : fdiv f d a b = quietNaN f d := by
  unfold fdiv
  rw [ha, hb]

theorem fdiv_inf_fin (ha : unpack f a = .inf s) (hb : unpack f b = .fin t n y) :
    fdiv f d a b = infT f (s ^^ t) := by
  unfold fdiv
  rw [ha, hb]

theorem fdiv_fin_inf (ha : unpack f a = .fin s m x) (hb : unpack f b = .inf t) :
    fdiv f d a b = zeroT f (s ^^ t) := by
  unfold fdiv
  rw [ha, hb]

theorem fdiv_by_zero (ha : unpack f a = .fin s m x) (hb : unpack f b = .fin t 0 y) :
    fdiv f d a b = if m = 0 then quietNaN f d else infT f (s ^^ t) := by
  unfold fdiv
  rw [ha, hb]
  rfl

/-- The quotient of finite numbers: `k` more bits of the dividend than the divisor has, and the rest as a sticky bit. -/
theorem fdiv_fin_fin (ha : unpack f a = .fin s m x) (hb : unpack f b = .fin t n y) (hn : n ≠ 0) {k : Nat}
    (hk : k = fracBits f + 3 + Nat.log2 n) :
    fdiv f d a b = packT f (s ^^ t)
      (roundMag f (m * 2 ^ k / n) (x - y - (k : Int)) (decide (m * 2 ^ k % n ≠ 0))) := by
  subst hk
  unfold fdiv
  rw [ha, hb]
  simp only [if_neg hn]

theorem fsqrt_inf (h : unpack f a = .inf s) : fsqrt f d a = if s then quietNaN f d else infT f false := by
  unfold fsqrt
  rw [h]
  cases s <;> rfl

theorem fsqrt_zero (h : unpack f a = .fin s 0 x) : fsqrt f d a = zeroT f s := by
  unfold fsqrt
  rw [h]
  rfl

theorem fsqrt_neg (h : unpack f a = .fin true m x) (hm : m ≠ 0) : fsqrt f d a = quietNaN f d := by
  unfold fsqrt
  rw [h]
  simp only [if_neg hm]
  rfl

/-- The root of a positive number: the radicand over an even exponent, its integer root, and the rest as a sticky
bit. -/
theorem fsqrt_pos (h : unpack f a = .fin false m x) (hm : m ≠ 0) {k : Nat}
    (hk : k = 2 * (fracBits f + 3) + (x % 2).toNat) :
    fsqrt f d a = packT f false (roundMag f (isqrt (m * 2 ^ k)) ((x - (k : Int)) / 2)
      (decide (isqrt (m * 2 ^ k) * isqrt (m * 2 ^ k) ≠ m * 2 ^ k))) := by
  subst hk
  unfold fsqrt
  rw [h]
  simp only [if_neg hm]
  rfl

end

/-! ## Quiet NaNs (R115) -/

theorem isQuiet_quietNaN (f : Flen) (d : Nat) : isQuiet f (quietNaN f d) = true := by
  rw [isQuiet, isNaN_quietNaN, Bool.true_and]
  cases f <;> simp [quietNaN, fracBits]

/-- Settles O44: in each of these cases the operation answers with the quiet NaN of its draw. -/
theorem invalidOperationsGiveQuietNans : Obligations.InvalidOperationsGiveQuietNans := by
  intro f d a b
  have quiet {w : T} (h : w = quietNaN f d) : isQuiet f w = true := h ▸ isQuiet_quietNaN f d
  have unpackNaN {w : T} (h : isNaN f w = true) : unpack f w = .nan := of_decide_eq_true h
  refine ⟨?_, fun ha => quiet (fsqrt_nan d (unpackNaN ha)), ?_, ?_, ?_, ?_, ?_⟩
  · rintro (ha | hb)
    · have ha := unpackNaN ha
      exact ⟨quiet (fadd_nan_left d _ ha), quiet (fadd_nan_left d _ ha), quiet (fmul_nan_left d _ ha),
        quiet (fdiv_nan_left d ha)⟩
    · have hb := unpackNaN hb
      exact ⟨quiet (fadd_nan_right d hb), quiet (fadd_nan_right d (unpack_negT_nan hb)), quiet (fmul_nan_right d hb),
        quiet (fdiv_nan_right d hb)⟩
  · intro s t ha hb
    refine ⟨quiet (fdiv_inf_inf d ha hb), fun hst => ?_, fun hst => ?_⟩
    · exact quiet ((fadd_inf_inf d ha (unpack_negT_inf hb)).trans (if_neg (by simp [hst])))
    · exact quiet ((fadd_inf_inf d ha hb).trans (if_neg hst))
  · intro s t e ha hb
    exact ⟨quiet (fmul_inf_fin d ha hb), quiet (fmul_fin_inf d hb ha)⟩
  · intro s e t e' ha hb
    exact quiet (fdiv_by_zero d ha hb)
  · intro m e hm ha
    exact quiet (fsqrt_neg d ha hm)
  · intro ha
    exact quiet (fsqrt_inf d ha)

/-! ## Infinities and zero divisors (R111, R113) -/

@[simp] theorem roundMag_zero (f : Flen) (e : Int) (sticky : Bool) : roundMag f 0 e sticky = 0 := rfl

/-- Settles O59: one case of each operation at a time. -/
theorem infinitiesFollowIeee : Obligations.InfinitiesFollowIeee := by
  intro f d a b p q m e
  refine ⟨⟨unpack_infT f p, unpack_zeroT f p⟩, fun ha hb => ?_, fun ha hb => ?_, fun n x ha hb => ?_, fun ha => ?_⟩
  · refine ⟨fadd_inf_fin d ha hb, fadd_fin_inf d hb ha, fadd_inf_fin d ha (unpack_negT_fin hb),
      fadd_fin_inf d hb (unpack_negT_inf ha), fdiv_inf_fin d ha hb, ?_, fun hm => ⟨?_, ?_⟩⟩
    · rw [Bool.xor_comm, fdiv_fin_inf d hb ha]
    · rw [fmul_inf_fin d ha hb, if_neg hm]
    · rw [Bool.xor_comm, fmul_fin_inf d hb ha, if_neg hm]
  · refine ⟨fmul_inf_inf d ha hb, fun hpq => ?_, fun hpq => ?_⟩
    · rw [fadd_inf_inf d ha hb, if_pos hpq]
    · have hsign : p = !q := Bool.eq_not_of_ne hpq
      rw [fsub, fadd_inf_inf d ha (unpack_negT_inf hb), if_pos hsign]
  · constructor
    · rintro hn rfl
      rw [fdiv_by_zero d ha hb, if_neg hn]
    · rintro rfl hm
      rw [fdiv_fin_fin d ha hb hm rfl, Nat.zero_mul, Nat.zero_div, roundMag_zero, zeroT]
  · rw [fsqrt_inf d ha]
    rfl

/-! ## Signs of zeros (R116) -/

section

variable {f : Flen} {a b : T} (d : Nat) {s t : Bool} {m n : Nat} {x y : Int}

theorem signed_zero (s : Bool) : signed s 0 = 0 := by cases s <;> rfl

theorem signed_not (s : Bool) (m : Nat) : signed (!s) m = -signed s m := by cases s <;> simp [signed]

theorem alignedSum_zeros : alignedSum s 0 x t 0 y = 0 := by
  rw [alignedSum, Nat.zero_mul, Nat.zero_mul, signed_zero, signed_zero, Int.add_zero]

/-- A sum of two zeros is `-0` only when both are. -/
theorem fadd_zeros (ha : unpack f a = .fin s 0 x) (hb : unpack f b = .fin t 0 y) :
    fadd f d a b = zeroT f (s && t) := by
  rw [fadd_fin_fin d ha hb, if_pos alignedSum_zeros]

theorem fsub_zeros (ha : unpack f a = .fin s 0 x) (hb : unpack f b = .fin t 0 y) :
    fsub f d a b = zeroT f (s && !t) := fadd_zeros d ha (unpack_negT_fin hb)

/-- A finite number less itself is `+0`. -/
theorem fsub_self (ha : unpack f a = .fin s m x) : fsub f d a a = zeroT f false := by
  have hzero : alignedSum s m x (!s) m x = 0 := by rw [alignedSum, signed_not, Int.add_right_neg]
  rw [fsub, fadd_fin_fin d ha (unpack_negT_fin ha), if_pos hzero, Bool.and_not_self]

theorem fmul_zero_left (ha : unpack f a = .fin s 0 x) (hb : unpack f b = .fin t n y) :
    fmul f d a b = zeroT f (s ^^ t) := by
  rw [fmul_fin_fin d ha hb, Nat.zero_mul, roundMag_zero, zeroT]

theorem fmul_zero_right (ha : unpack f a = .fin s m x) (hb : unpack f b = .fin t 0 y) :
    fmul f d a b = zeroT f (s ^^ t) := by
  rw [fmul_fin_fin d ha hb, Nat.mul_zero, roundMag_zero, zeroT]

end

/-- What a sum, a product or a root of non-negative numbers denotes: a NaN, or something with a clear sign. -/
def FVal.notNegative : FVal → Prop
  | .nan => True
  | .inf s => s = false
  | .fin s _ _ => s = false

section

variable {f : Flen} {a b : T} (d : Nat)

theorem notNegative_of_signBit (h : signBit f a = false) : (unpack f a).notNegative := by
  rw [unpack_eq]
  split_ifs
  · exact h
  · exact h
  · trivial

theorem notNegative_packT {mag : Nat} (h : mag ≤ infPattern f) : (unpack f (packT f false mag)).notNegative :=
  notNegative_of_signBit (signBit_packT h)

theorem notNegative_quietNaN : (unpack f (quietNaN f d)).notNegative := by
  rw [unpack_quietNaN]
  trivial

theorem notNegative_infT : (unpack f (infT f false)).notNegative := notNegative_packT le_rfl

theorem notNegative_zeroT : (unpack f (zeroT f false)).notNegative := notNegative_packT (Nat.zero_le _)

/-- A square has a clear sign, or is a NaN. -/
theorem notNegative_fmul_self : (unpack f (fmul f d a a)).notNegative := by
  cases ha : unpack f a with
  | nan => exact fmul_nan_left d a ha ▸ notNegative_quietNaN d
  | inf s =>
    rw [fmul_inf_inf d ha ha, Bool.xor_self]
    exact notNegative_infT
  | fin s m x =>
    rw [fmul_fin_fin d ha ha, Bool.xor_self]
    exact notNegative_packT (roundMag_le f _ _ _)

theorem notNegative_fadd (ha : (unpack f a).notNegative) (hb : (unpack f b).notNegative) :
    (unpack f (fadd f d a b)).notNegative := by
  cases hua : unpack f a with
  | nan => exact fadd_nan_left d b hua ▸ notNegative_quietNaN d
  | inf s =>
    rw [hua] at ha
    obtain rfl : s = false := ha
    cases hub : unpack f b with
    | nan => exact fadd_nan_right d hub ▸ notNegative_quietNaN d
    | inf t =>
      rw [fadd_inf_inf d hua hub]
      split_ifs
      · exact notNegative_infT
      · exact notNegative_quietNaN d
    | fin t n y => exact fadd_inf_fin d hua hub ▸ notNegative_infT
  | fin s m x =>
    rw [hua] at ha
    obtain rfl : s = false := ha
    cases hub : unpack f b with
    | nan => exact fadd_nan_right d hub ▸ notNegative_quietNaN d
    | inf t =>
      rw [hub] at hb
      obtain rfl : t = false := hb
      exact fadd_fin_inf d hua hub ▸ notNegative_infT
    | fin t n y =>
      rw [hub] at hb
      obtain rfl : t = false := hb
      have hpos : ¬ alignedSum false m x false n y < 0 := by
        simp only [alignedSum, signed, Bool.false_eq_true, if_false]
        omega
      rw [fadd_fin_fin d hua hub, decide_eq_false hpos]
      split_ifs
      · exact notNegative_zeroT
      · exact notNegative_packT (roundMag_le f _ _ _)

theorem notNegative_fsqrt (ha : (unpack f a).notNegative) : (unpack f (fsqrt f d a)).notNegative := by
  cases hua : unpack f a with
  | nan => exact fsqrt_nan d hua ▸ notNegative_quietNaN d
  | inf s =>
    rw [hua] at ha
    obtain rfl : s = false := ha
    exact fsqrt_inf d hua ▸ notNegative_infT
  | fin s m x =>
    rw [hua] at ha
    obtain rfl : s = false := ha
    by_cases hm : m = 0
    · subst hm
      exact fsqrt_zero d hua ▸ notNegative_zeroT
    · rw [fsqrt_pos d hua hm rfl]
      exact notNegative_packT (roundMag_le f _ _ _)

theorem toNat_lt_of_notNegative (hfit : fits f a = true) (ha : (unpack f a).notNegative) (hnan : isNaN f a = false) :
    a.toNat < 2 ^ (flenBits f - 1) := by
  refine toNat_lt_of_signBit hfit ?_
  have hnan : unpack f a ≠ .nan := of_decide_eq_false hnan
  rw [unpack_eq] at ha hnan
  split_ifs at ha hnan
  · exact ha
  · exact ha
  · exact absurd rfl hnan

end

/-- Settles O47: sums of zeros, a difference of equals and products with a zero are exact zeros; a sum of squares has a
clear sign. -/
theorem zeroResultsHaveTheIeeeSign : Obligations.ZeroResultsHaveTheIeeeSign := by
  intro f d a s m e _ ha
  have hzero (z : Bool) : unpack f (zeroT f z) = .fin z 0 (expMin f) := unpack_zeroT f z
  refine ⟨fadd_zeros d (hzero _) (hzero _), fadd_zeros d (hzero _) (hzero _), fsub_self d ha,
    fsub_zeros d (hzero _) (hzero _), fsub_zeros d (hzero _) (hzero _), fun z => ⟨?_, ?_⟩, fun z => ?_,
    fadd_zeros d (hzero _) (hzero _), fun d₁ d₂ x y heq => ?_⟩
  · exact fmul_zero_left d (hzero z) ha
  · exact fmul_zero_right d ha (hzero z)
  · exact fsqrt_zero d (hzero z)
  · have hsum := notNegative_fadd (f := f) d (notNegative_fmul_self (a := x) d₁) (notNegative_fmul_self (a := y) d₂)
    rw [heq, hzero true] at hsum
    cases hsum

/-- The rectifier gives its operand when that is greater than zero, so neither a NaN nor negative, or else `+0`
(R126). -/
theorem onsmax_cases (f : Flen) (a : T) :
    (onsmax f a = a ∧ isNaN f a = false ∧ signBit f a = false) ∨ onsmax f a = zeroT f false := by
  unfold onsmax
  split_ifs with hgt
  · simp only [fgt, Bool.and_eq_true, Bool.not_eq_true', decide_eq_true_eq] at hgt
    obtain ⟨⟨hnan, -⟩, hkey⟩ := hgt
    refine .inl ⟨rfl, hnan, ?_⟩
    by_contra hsign
    have hsign : signBit f a = true := by simpa using hsign
    have hzero : orderKey f (zeroT f false) = 0 := by cases f <;> rfl
    have hneg : orderKey f a = -(magBits f a : Int) := by
      rw [orderKey, ← signBit, hsign]
      rfl
    omega
  · exact .inr rfl

theorem onsmax_notNaN_notNegative {f : Flen} {a : T} (hfit : fits f a = true) :
    isNaN f (onsmax f a) = false ∧ (onsmax f a).toNat < 2 ^ (flenBits f - 1) := by
  rcases onsmax_cases f a with ⟨hkeep, hnan, hsign⟩ | hzero
  · rw [hkeep]
    exact ⟨hnan, toNat_lt_of_signBit hfit hsign⟩
  · rw [hzero]
    exact ⟨by rw [isNaN, unpack_zeroT]; rfl, toNat_lt_of_signBit (fits_zeroT f false) (signBit_packT (Nat.zero_le _))⟩

/-- Settles O50: the radicand of a modulus is not negative, so neither is its root. -/
theorem modulusAndRectifierAreNotNegative : Obligations.ModulusAndRectifierAreNotNegative := by
  intro f d z a _ _ ha
  refine ⟨fun hnan => toNat_lt_of_notNegative (fits_cabs f d z) ?_ hnan, onsmax_notNaN_notNegative ha⟩
  exact notNegative_fsqrt _ (notNegative_fadd _ (notNegative_fmul_self _) (notNegative_fmul_self _))

end Sys2Proof.Machine
end

section
/-! Index arithmetic of the transform: the pairs of one stage (R130, R167, R171) and bit reversal (R144, R147). -/

namespace Sys2Proof.Machine

/-! ## The pairs of a stage -/

/-- The butterfly whose pair holds index `j`: groups of `2 * 2^k` indices hold `2^k` butterflies each. -/
def pairOf (k j : Nat) : Nat := j / (2 * 2 ^ k) * 2 ^ k + j % 2 ^ k

theorem pairOf_group {k g r : Nat} (hr : r < 2 * 2 ^ k) : pairOf k (g * (2 * 2 ^ k) + r) = g * 2 ^ k + r % 2 ^ k := by
  have hpos : 0 < 2 * 2 ^ k := by omega
  have hgroup : (g * (2 * 2 ^ k) + r) / (2 * 2 ^ k) = g := by
    rw [Nat.mul_comm, Nat.mul_add_div hpos, Nat.div_eq_of_lt hr, Nat.add_zero]
  have hplace : (g * (2 * 2 ^ k) + r) % 2 ^ k = r % 2 ^ k := by rw [← Nat.mul_assoc, Nat.mul_add_mod']
  rw [pairOf, hgroup, hplace]

theorem bfly_pair_iff {k q j : Nat} : (j = bflyLower k q ∨ j = bflyUpper k q) ↔ q = pairOf k j := by
  have hstage : 0 < 2 ^ k := Nat.two_pow_pos k
  constructor
  · have hmod : q % 2 ^ k < 2 ^ k := Nat.mod_lt q hstage
    have hq : q / 2 ^ k * 2 ^ k + q % 2 ^ k = q := Nat.div_add_mod' q (2 ^ k)
    rintro (rfl | rfl)
    · rw [bflyLower, bflyStage, pairOf_group (by omega), Nat.mod_mod, hq]
    · rw [bflyUpper, bflyLower, bflyStage, Nat.add_assoc, pairOf_group (by omega), Nat.add_mod_right, Nat.mod_mod, hq]
  · rintro rfl
    have hplace : j % 2 ^ k < 2 ^ k := Nat.mod_lt j hstage
    have hdiv : pairOf k j / 2 ^ k = j / (2 * 2 ^ k) := by
      rw [pairOf, Nat.mul_comm, Nat.mul_add_div hstage, Nat.div_eq_of_lt hplace, Nat.add_zero]
    have hmod : pairOf k j % 2 ^ k = j % 2 ^ k := by rw [pairOf, Nat.mul_add_mod', Nat.mod_mod]
    have hj : j / (2 * 2 ^ k) * (2 * 2 ^ k) + j % (2 * 2 ^ k) = j := Nat.div_add_mod' j _
    have hhalf : j % (2 * 2 ^ k) % 2 ^ k = j % 2 ^ k := Nat.mod_mul_left_mod j 2 _
    have hrem : j % (2 * 2 ^ k) < 2 * 2 ^ k := Nat.mod_lt j (by omega)
    rw [bflyUpper, bflyLower, bflyStage, hdiv, hmod]
    obtain hlow | hhigh := Nat.lt_or_ge (j % (2 * 2 ^ k)) (2 ^ k)
    · rw [Nat.mod_eq_of_lt hlow] at hhalf
      exact .inl (by rw [← hhalf, hj])
    · rw [Nat.mod_eq_sub_mod hhigh, Nat.mod_eq_of_lt (by omega)] at hhalf
      exact .inr (by rw [← hhalf, Nat.add_assoc, Nat.sub_add_cancel hhigh, hj])

theorem pairOf_lt {L k j : Nat} (hk : k < L) (hj : j < 2 ^ L) : pairOf k j < 2 ^ (L - 1) := by
  obtain ⟨m, rfl⟩ := Nat.exists_eq_add_of_lt hk
  have hstage : 0 < 2 ^ k := Nat.two_pow_pos k
  have hsize : 2 ^ (k + m + 1) = 2 * 2 ^ k * 2 ^ m := by rw [Nat.pow_succ, Nat.pow_add]; ring
  have hgroup : j / (2 * 2 ^ k) + 1 ≤ 2 ^ m := Nat.div_lt_of_lt_mul (hsize ▸ hj)
  have hplace : j % 2 ^ k < 2 ^ k := Nat.mod_lt j hstage
  calc pairOf k j < (j / (2 * 2 ^ k) + 1) * 2 ^ k := by rw [pairOf, Nat.add_mul]; omega
    _ ≤ 2 ^ m * 2 ^ k := Nat.mul_le_mul_right _ hgroup
    _ = 2 ^ (k + m + 1 - 1) := by rw [Nat.add_sub_cancel, Nat.pow_add, Nat.mul_comm]

/-- Settles O28: the one pair an index is in is that of `pairOf`. -/
theorem butterflyPairsTileTheArray : Obligations.ButterflyPairsTileTheArray := by
  intro L k hk
  have hhalf : 2 ^ L / 2 = 2 ^ (L - 1) := Nat.pow_div (n := 1) (by omega) Nat.two_pos
  refine ⟨fun q hq => ?_, fun j hj => ?_⟩
  · obtain ⟨htw, hup, -⟩ := bfly_indices_lt hk (hhalf.symm ▸ hq)
    exact ⟨hup, Nat.lt_add_of_pos_right (Nat.two_pow_pos k), hhalf ▸ htw⟩
  · exact ⟨pairOf k j, ⟨pairOf_lt hk hj, bfly_pair_iff.2 rfl⟩, fun q' _ hq' => bfly_pair_iff.1 hq'⟩

/-! ## Bit reversal -/

theorem bitrev_testBit {L b : Nat} (hb : b < L) (i : Nat) : (bitrev L i).testBit (L - 1 - b) = i.testBit b := by
  induction L generalizing b i with
  | zero => exact absurd hb (Nat.not_lt_zero b)
  | succ l ih =>
    rw [bitrev, Nat.mul_comm, Nat.testBit_two_pow_mul_add _ (bitrev_lt l (i / 2))]
    cases b with
    | zero => simp
    | succ b =>
      have hb : b < l := Nat.lt_of_succ_lt_succ hb
      have hpos : l + 1 - 1 - (b + 1) = l - 1 - b := by omega
      rw [hpos, if_pos (by omega), ih hb, Nat.testBit_succ]

/-- A number of `L` bits is known by its bits below `L`. -/
theorem eq_of_testBit_lt {L x y : Nat} (hx : x < 2 ^ L) (hy : y < 2 ^ L)
    (h : ∀ b, b < L → x.testBit b = y.testBit b) : x = y := by
  refine Nat.eq_of_testBit_eq fun b => ?_
  obtain hb | hb := Nat.lt_or_ge b L
  · exact h b hb
  · have hpow : 2 ^ L ≤ 2 ^ b := Nat.pow_le_pow_right (by decide) hb
    rw [Nat.testBit_lt_two_pow (hx.trans_le hpow), Nat.testBit_lt_two_pow (hy.trans_le hpow)]

/-- A number is the reversal of `i` when its bits are those of `i` in the other order. -/
theorem bitrev_eq_of_testBit {L i x : Nat} (hx : x < 2 ^ L)
    (h : ∀ b, b < L → x.testBit (L - 1 - b) = i.testBit b) : bitrev L i = x := by
  refine eq_of_testBit_lt (bitrev_lt L i) hx fun b hb => ?_
  have hback : L - 1 - (L - 1 - b) = b := by omega
  have hlt : L - 1 - b < L := by omega
  rw [← hback, bitrev_testBit hlt, h _ hlt]

theorem bitrev_zero_right (L : Nat) : bitrev L 0 = 0 :=
  bitrev_eq_of_testBit (Nat.two_pow_pos L) fun b _ => by simp

/-- Settles O30: each equation is one of bits. -/
theorem bitReversalIsItsOwnInverse : Obligations.BitReversalIsItsOwnInverse := by
  intro L i hi
  refine ⟨fun b hb => bitrev_testBit hb i, bitrev_lt L i, ?_, bitrev_zero_right L, ?_, fun hL => ?_⟩
  · exact bitrev_eq_of_testBit hi fun b hb => by
      rw [← bitrev_testBit (by omega : L - 1 - b < L)]
      congr 1
      omega
  · refine bitrev_eq_of_testBit (Nat.sub_lt (Nat.two_pow_pos L) Nat.one_pos) fun b hb => ?_
    have hlt : L - 1 - b < L := by omega
    simp [Nat.testBit_two_pow_sub_one, hb, hlt]
  · obtain ⟨l, rfl⟩ := Nat.exists_eq_add_of_le' hL
    rw [bitrev, bitrev_zero_right, Nat.pow_succ, Nat.mul_div_cancel _ Nat.two_pos]
    simp

end Sys2Proof.Machine
end

section
/-! What the lists of `TE.WINLD`, `TE.MAG` and `TD.ONSET` leave in the element memories (R162, R170, R192). -/

namespace Sys2Proof.Machine

/-- A command that builds no table, issued and then waited for: the two outcomes that `runCommand` puts together. -/
theorem Issuable.completes {i : Instr} {us : List MicroOp} {s w : State} (h : Issuable i us s)
    (hi : buildsTables i = false) (hw : performAll us s = .ok w) :
    exec i s = .next (accept (encode i) s) ∧ run (us.length + 1) (accept (encode i) s) = .next (leaves i s w) := by
  have hrun := h.runCommand_eq hi hw
  rw [runCommand, h.exec_eq, ← h.length_eq] at hrun
  exact ⟨h.exec_eq, hrun⟩

theorem performAll_concat {us : List MicroOp} {u : MicroOp} {s w : State} :
    performAll (us ++ [u]) s = .ok w ↔ ∃ x, performAll us s = .ok x ∧ perform u x = .ok w := by
  rw [performAll_append, bind_ok_iff]
  refine exists_congr fun x => and_congr_right fun _ => ?_
  simp [performAll_cons, bind_ok_iff]

/-! ## Windowed load -/

theorem performAll_wldList {n : Nat} {s w : State} (h : performAll (wldList n) s = .ok w) :
    w = { s with work := w.work, nanDraws := s.nanDraws + n } ∧
      ∀ i, i < n → ∃ r x v, memRead s.br i = some r ∧ memRead s.inp r = some x ∧
        memRead s.win (foldIdx r s.teN) = some v ∧
        memRead w.work i =
          some { re := fmul s.build.flen (s.nanDraws + i) x v, im := zeroT s.build.flen false } := by
  induction n generalizing w with
  | zero => cases h; exact ⟨rfl, fun i hi => absurd hi (Nat.not_lt_zero i)⟩
  | succ n ih =>
    rw [wldList, List.range_succ, List.map_append] at h
    obtain ⟨y, hy, h⟩ := performAll_concat.1 h
    obtain ⟨hframe, hread⟩ := ih hy
    generalize y.work = work at hframe hread
    subst hframe
    obtain ⟨r, x, v, hr, hx, hv, rfl⟩ := doWld_ok h
    refine ⟨rfl, fun i hi => ?_⟩
    by_cases hlast : i = n
    · subst hlast
      exact ⟨r, x, v, hr, hx, hv, memRead_memWrite_same _ _ _⟩
    · obtain ⟨r, x, v, hr, hx, hv, hwork⟩ := hread i (by omega)
      exact ⟨r, x, v, hr, hx, hv, (memRead_memWrite_other _ _ hlast).trans hwork⟩

/-! ## Moduli -/

theorem performAll_magk {n : Nat} {s w : State} (h : performAll ((List.range n).map .magk) s = .ok w) :
    w = { s with out := w.out, nanDraws := s.nanDraws + 4 * n } ∧
      (∀ k, k < n → ∃ z, memRead s.work k = some z ∧
        memRead w.out k = some (cabs s.build.flen (s.nanDraws + 4 * k) z)) ∧
      ∀ k, n ≤ k → memRead w.out k = memRead s.out k := by
  induction n generalizing w with
  | zero => cases h; exact ⟨rfl, fun k hk => absurd hk (Nat.not_lt_zero k), fun _ _ => rfl⟩
  | succ n ih =>
    rw [List.range_succ, List.map_append] at h
    obtain ⟨y, hy, h⟩ := performAll_concat.1 h
    obtain ⟨hframe, hread, hkept⟩ := ih hy
    generalize y.out = out at hframe hread hkept
    subst hframe
    obtain ⟨z, hz, rfl⟩ := doMagk_ok h
    refine ⟨rfl, fun k hk => ?_, fun k hk => ?_⟩
    · by_cases hlast : k = n
      · subst hlast
        exact ⟨z, hz, memRead_memWrite_same _ _ _⟩
      · obtain ⟨z, hz, hout⟩ := hread k (by omega)
        exact ⟨z, hz, (memRead_memWrite_other _ _ hlast).trans hout⟩
    · exact (memRead_memWrite_other _ _ (by omega)).trans (hkept k (by omega))

/-- Settles O16: the list of `TE.MAG` writes the moduli, and its completion sets `OUT_VALID`. -/
theorem magWritesTheMagnitudes : Obligations.MagWritesTheMagnitudes := by
  intro s hs hready hv hwork
  have hissue := teMag_issuable hready hv hwork
  obtain ⟨w, hw⟩ := hissue.performAll_answers rfl hs
  obtain ⟨hexec, hrun⟩ := hissue.completes rfl hw
  obtain ⟨hframe, hout, hkept⟩ := performAll_magk hw
  have hlen : (magkList (s.teN / 2)).length = s.teN / 2 + 1 := by simp [magkList]
  rw [hlen] at hrun
  refine ⟨_, leaves .teMag s w, hexec, hrun, ?_, fun k hk => hout k (by omega), fun k hk => hkept k (by omega)⟩
  generalize w.out = out at hframe
  subst hframe
  rfl

/-! ## Onset -/

/-- `ONS n` reads an index and the one below it, and the list counts down, so every difference is one of the values
from before the list (R191, R192). -/
theorem performAll_ons {N c : Nat} {s w : State} (hc : c ≤ N)
    (h : performAll ((List.range c).map fun p => .ons (N - p)) s = .ok w) :
    w = { s with dv := w.dv, nanDraws := s.nanDraws + c } ∧
      (∀ n, N - c < n → n ≤ N → ∃ x y, memRead s.dv n = some x ∧ memRead s.dv (n - 1) = some y ∧
        memRead w.dv n = some (onsmax s.build.flen (fsub s.build.flen (s.nanDraws + (N - n)) x y))) ∧
      ∀ n, n ≤ N - c ∨ N < n → memRead w.dv n = memRead s.dv n := by
  induction c generalizing w with
  | zero => cases h; exact ⟨rfl, fun n hlow hhigh => by omega, fun _ _ => rfl⟩
  | succ c ih =>
    rw [List.range_succ, List.map_append] at h
    obtain ⟨y, hy, h⟩ := performAll_concat.1 h
    obtain ⟨hframe, hread, hkept⟩ := ih (by omega) hy
    generalize y.dv = dv at hframe hread hkept
    subst hframe
    obtain ⟨x, y, hx, hy, rfl⟩ := doOns_ok h
    have hx : memRead s.dv (N - c) = some x := (hkept _ (.inl le_rfl)).symm.trans hx
    have hy : memRead s.dv (N - c - 1) = some y := (hkept _ (.inl (Nat.sub_le _ _))).symm.trans hy
    refine ⟨rfl, fun n hlow hhigh => ?_, fun n hn => ?_⟩
    · by_cases hlast : n = N - c
      · subst hlast
        have hdraw : N - (N - c) = c := by omega
        exact ⟨x, y, hx, hy, by rw [hdraw]; exact memRead_memWrite_same _ _ _⟩
      · obtain ⟨x, y, hx, hy, hdv⟩ := hread n (by omega) hhigh
        exact ⟨x, y, hx, hy, (memRead_memWrite_other _ _ hlast).trans hdv⟩
    · exact (memRead_memWrite_other _ _ (by omega)).trans (hkept n (by omega))

/-- Settles O20: the list of `TD.ONSET` writes the differences, and a rectified value is neither a NaN nor negative. -/
theorem onsetDifferencesThePushedSeries : Obligations.OnsetDifferencesThePushedSeries := by
  intro s hs hready hv hons hfull
  have hissue := tdOnset_issuable hready hv hons hfull
  obtain ⟨w, hw⟩ := hissue.performAll_answers rfl hs
  obtain ⟨hexec, hrun⟩ := hissue.completes rfl hw
  obtain ⟨hframe, hdv, hkept⟩ := performAll_ons (N := s.tdN - 1) le_rfl hw
  have hone := (hs.tdOn hv).1
  have hlen : (onsList s).length + 1 = s.tdN := by
    simp only [onsList, List.length_map, List.length_range, tdOnsetLen]
    omega
  rw [hlen] at hrun
  refine ⟨_, leaves .tdOnset s w, hexec, hrun, ?_, fun n hlow hhigh => ?_, fun n hn => hkept n (by omega)⟩
  · generalize w.dv = dv at hframe
    subst hframe
    rfl
  · obtain ⟨x, y, hx, hy, hn⟩ := hdv n (by omega) (by omega)
    refine ⟨x, y, hx, hy, hn, fun z hz => ?_⟩
    obtain rfl := Option.some.inj (hn.symm.trans hz)
    exact onsmax_notNaN_notNegative (fits_fsub _ _ _ _)

/-! ## A NaN result of the sweep (R212) -/

/-- Settles O32: the slope from a NaN is a NaN, and a NaN is not `<= 0`. -/
theorem peakOfANanInsertsNothing : Obligations.PeakOfANanInsertsNothing := by
  intro s i hnan
  have hslope : fsub s.build.flen (s.nanDraws + 4) (cabs s.build.flen s.nanDraws { re := s.sre, im := s.sim }) s.pres =
      quietNaN s.build.flen (s.nanDraws + 4) := fadd_nan_left _ _ (of_decide_eq_true hnan)
  have hturned : slopeTurned s.build.flen s.pslope (quietNaN s.build.flen (s.nanDraws + 4)) = false := by
    simp [slopeTurned, fle]
  refine ⟨draw 5 { s with
      pslope := quietNaN s.build.flen (s.nanDraws + 4)
      pres := cabs s.build.flen s.nanDraws { re := s.sre, im := s.sim } },
    ?_, rfl, rfl, rfl, isNaN_quietNaN s.build.flen (s.nanDraws + 4)⟩
  simp only [perform, doPeak, hslope, hturned]
  rfl

end Sys2Proof.Machine
end

section
/-! A block of `+0` samples through the transform (R178): zeros stay zeros under every operation of the list, as long as
the table entries are finite. -/

namespace Sys2Proof.Machine

/-! ## Zeros -/

/-- The pattern denotes a zero, of either sign. -/
def IsZero (f : Flen) (w : T) : Prop := ∃ s e, unpack f w = .fin s 0 e

/-- Both parts are zeros. -/
def IsZeroCplx (f : Flen) (z : Cplx) : Prop := IsZero f z.re ∧ IsZero f z.im

/-- The pattern denotes a finite number. -/
def IsFinite (f : Flen) (w : T) : Prop := ∃ s m e, unpack f w = .fin s m e

theorem cvt_one_lt (f : Flen) : (cvt f 1).toNat < infPattern f := by cases f <;> decide

section

variable {f : Flen} {a b : T} (d : Nat)

theorem isFinite_of_unitBounded (h : unitBounded f a = true) : IsFinite f a :=
  ⟨_, _, _, unpack_finite (lt_of_le_of_lt (of_decide_eq_true h) (cvt_one_lt f))⟩

theorem isZero_zeroT (s : Bool) : IsZero f (zeroT f s) := ⟨s, _, unpack_zeroT f s⟩

theorem isZero_fadd (ha : IsZero f a) (hb : IsZero f b) : IsZero f (fadd f d a b) := by
  obtain ⟨s, x, ha⟩ := ha
  obtain ⟨t, y, hb⟩ := hb
  exact fadd_zeros d ha hb ▸ isZero_zeroT _

theorem isZero_fsub (ha : IsZero f a) (hb : IsZero f b) : IsZero f (fsub f d a b) := by
  obtain ⟨s, x, ha⟩ := ha
  obtain ⟨t, y, hb⟩ := hb
  exact fsub_zeros d ha hb ▸ isZero_zeroT _

theorem isZero_fmul_left (ha : IsZero f a) (hb : IsFinite f b) : IsZero f (fmul f d a b) := by
  obtain ⟨s, x, ha⟩ := ha
  obtain ⟨t, n, y, hb⟩ := hb
  exact fmul_zero_left d ha hb ▸ isZero_zeroT _

theorem isZero_fmul_right (ha : IsFinite f a) (hb : IsZero f b) : IsZero f (fmul f d a b) := by
  obtain ⟨s, m, x, ha⟩ := ha
  obtain ⟨t, y, hb⟩ := hb
  exact fmul_zero_right d ha hb ▸ isZero_zeroT _

/-- R116, R121: the modulus of a zero is `+0`, since squares and their sum have a clear sign. -/
theorem cabs_zero {z : Cplx} (h : IsZeroCplx f z) : cabs f d z = 0 := by
  obtain ⟨⟨s, x, hre⟩, ⟨t, y, him⟩⟩ := h
  rw [cabs, fmul_zero_left d hre hre, fmul_zero_left _ him him, Bool.xor_self, Bool.xor_self,
    fadd_zeros _ (unpack_zeroT f false) (unpack_zeroT f false), fsqrt_zero _ (unpack_zeroT f _), Bool.and_self,
    zeroT_false]

end

section

variable {f : Flen} {w u l : Cplx} (d : Nat)

theorem isZeroCplx_cmul (hre : IsFinite f w.re) (him : IsFinite f w.im) (hu : IsZeroCplx f u) :
    IsZeroCplx f (cmul f d w u) :=
  ⟨isZero_fsub _ (isZero_fmul_right _ hre hu.1) (isZero_fmul_right _ him hu.2),
    isZero_fadd _ (isZero_fmul_right _ hre hu.2) (isZero_fmul_right _ him hu.1)⟩

theorem isZeroCplx_cadd (hl : IsZeroCplx f l) (hu : IsZeroCplx f u) : IsZeroCplx f (cadd f d l u) :=
  ⟨isZero_fadd _ hl.1 hu.1, isZero_fadd _ hl.2 hu.2⟩

theorem isZeroCplx_csub (hl : IsZeroCplx f l) (hu : IsZeroCplx f u) : IsZeroCplx f (csub f d l u) :=
  ⟨isZero_fsub _ hl.1 hu.1, isZero_fsub _ hl.2 hu.2⟩

end

/-! ## A silent working array -/

/-- Every element of `WORK` below `N` is written and is a zero. -/
def Silent (s : State) : Prop := ∀ i, i < s.teN → ∃ z, memRead s.work i = some z ∧ IsZeroCplx s.build.flen z

/-- The entries of `TW` are finite. -/
def FiniteTwiddles (s : State) : Prop :=
  ∀ k w, memRead s.tw k = some w → IsFinite s.build.flen w.re ∧ IsFinite s.build.flen w.im

section

variable {s t : State}

/-- R163: every sample times its window entry is a zero, and the imaginary parts are `+0`. -/
theorem silent_of_wldList (hinp : ∀ i, i < s.teN → memRead s.inp i = some 0)
    (hwin : ∀ m w, memRead s.win m = some w → IsFinite s.build.flen w)
    (hbr : ∀ i r, i < s.teN → memRead s.br i = some r → r < s.teN)
    (h : performAll (wldList s.teN) s = .ok t) : Silent t := by
  obtain ⟨hframe, hread⟩ := performAll_wldList h
  intro i hi
  rw [hframe] at hi ⊢
  obtain ⟨r, x, v, hr, hx, hv, hwork⟩ := hread i hi
  obtain rfl : x = 0 := Option.some.inj (hx.symm.trans (hinp r (hbr i r hi hr)))
  refine ⟨_, hwork, isZero_fmul_left _ ?_ (hwin _ v hv), isZero_zeroT false⟩
  exact zeroT_false s.build.flen ▸ isZero_zeroT false

theorem bfly_silent {k q : Nat} (htw : FiniteTwiddles s) (hs : Silent s) (hup : bflyUpper k q < s.teN)
    (h : doBfly k q s = .ok t) :
    t.build = s.build ∧ t.teN = s.teN ∧ t.tw = s.tw ∧ Silent t := by
  obtain ⟨w, u, l, hw, hu, hl, rfl⟩ := doBfly_ok h
  refine ⟨rfl, rfl, rfl, fun i hi => ?_⟩
  have hlow : bflyLower k q < s.teN := lt_of_le_of_lt (Nat.le_add_right _ _) hup
  obtain ⟨u', hu', hzu⟩ := hs _ hup
  obtain ⟨l', hl', hzl⟩ := hs _ hlow
  obtain rfl := Option.some.inj (hu.symm.trans hu')
  obtain rfl := Option.some.inj (hl.symm.trans hl')
  obtain ⟨hre, him⟩ := htw _ w hw
  have hterm := isZeroCplx_cmul (d := s.nanDraws) hre him hzu
  simp only [memRead_memWrite]
  split_ifs
  · exact ⟨_, rfl, isZeroCplx_cadd _ hzl hterm⟩
  · exact ⟨_, rfl, isZeroCplx_csub _ hzl hterm⟩
  · exact hs i hi

theorem bflies_silent {us : List MicroOp} (hus : ∀ u ∈ us, ∃ k q, u = .bfly k q ∧ bflyUpper k q < s.teN)
    (htw : FiniteTwiddles s) (hs : Silent s) (h : performAll us s = .ok t) :
    t.build = s.build ∧ t.teN = s.teN ∧ Silent t := by
  induction us generalizing s with
  | nil => cases h; exact ⟨rfl, rfl, hs⟩
  | cons u us ih =>
    obtain ⟨x, hx, hrest⟩ := bind_ok_iff.1 h
    obtain ⟨k, q, rfl, hup⟩ := hus u List.mem_cons_self
    obtain ⟨hb, hn, htwx, hsx⟩ := bfly_silent htw hs hup hx
    have htw' : FiniteTwiddles x := by rwa [FiniteTwiddles, hb, htwx]
    obtain ⟨hb', hn', ht⟩ := ih (fun v hv => hn ▸ hus v (List.mem_cons_of_mem _ hv)) htw' hsx hrest
    exact ⟨hb'.trans hb, hn'.trans hn, ht⟩

theorem magkList_of_silent {h : Nat} (hh : h < s.teN) (hs : Silent s) (ht : performAll (magkList h) s = .ok t) :
    ∀ k, k ≤ h → memRead t.out k = some 0 := by
  intro k hk
  obtain ⟨-, hread, -⟩ := performAll_magk ht
  obtain ⟨z, hz, hout⟩ := hread k (by omega)
  obtain ⟨z', hz', hzero⟩ := hs k (by omega)
  obtain rfl := Option.some.inj (hz.symm.trans hz')
  rw [hout, cabs_zero _ hzero]

/-- The whole list of `TE.XFORM` may be issued. -/
theorem teXform_issuable (hs : Inv s) (hready : ready s = true) (hv : s.teValid = true) (hfull : s.teIncnt = s.teN) :
    Issuable .teXform
      (wldList s.teN ++ ((List.range s.teLog2n).flatMap (bflyList (s.teN / 2)) ++ magkList (s.teN / 2))) s := by
  obtain ⟨idle, rst, pending⟩ := ready_iff.1 hready
  have htwo := hs.two_le_teN hv
  exact { idle, rst, pending, word := by decide, notReset := by decide
          check := by simp [acceptCheck, teXformCheck, hv, hfull]
          list := teXform_list (by omega) }

theorem stages_in_range (hs : Inv s) (hv : s.teValid = true) :
    ∀ u ∈ (List.range s.teLog2n).flatMap (bflyList (s.teN / 2)), ∃ k q, u = .bfly k q ∧ bflyUpper k q < s.teN := by
  intro u hu
  obtain ⟨k, hk, hu⟩ := List.mem_flatMap.1 hu
  obtain ⟨q, hq, rfl⟩ := List.mem_map.1 hu
  obtain ⟨hn, -, -⟩ := hs.teOn hv
  obtain ⟨-, hup, -⟩ := bfly_indices_lt (List.mem_range.1 hk) (hn ▸ List.mem_range.1 hq)
  exact ⟨k, q, rfl, hn ▸ hup⟩

theorem Inv.br_lt (hs : Inv s) (hv : s.teValid = true) (hidle : s.busy = false) {i r : Nat} (hi : i < s.teN)
    (hr : memRead s.br i = some r) : r < s.teN := by
  have hbelow := hs.boundBr hv (by rw [hidle]; rfl) i hi
  rw [brBelow, hr] at hbelow
  exact of_decide_eq_true hbelow

end

/-- Settles O19: the load leaves `WORK` silent, the stages keep it so, and the moduli of zeros are `+0`. -/
theorem allZeroInputGivesAllZeroSpectrum : Obligations.AllZeroInputGivesAllZeroSpectrum := by
  intro s hs hready hv hfull hinp hwin htw
  have hissue := teXform_issuable hs hready hv hfull
  obtain ⟨w, hw⟩ := hissue.performAll_answers rfl hs
  refine ⟨leaves .teXform s w, hissue.runCommand_eq rfl hw, ?_⟩
  obtain ⟨hidle, -, -⟩ := ready_iff.1 hready
  have htwo := hs.two_le_teN hv
  rw [performAll_append] at hw
  obtain ⟨x, hx, hw⟩ := bind_ok_iff.1 hw
  rw [performAll_append] at hw
  obtain ⟨y, hy, hw⟩ := bind_ok_iff.1 hw
  have hsilent : Silent x := silent_of_wldList hinp (fun m v hm => isFinite_of_unitBounded (hwin m v hm))
    (fun i r hi hr => hs.br_lt hv hidle hi hr) hx
  have hframe := (performAll_wldList hx).1
  have htwx : FiniteTwiddles x := by
    rw [hframe]
    exact fun k z hz => (htw k z hz).imp isFinite_of_unitBounded isFinite_of_unitBounded
  have hn : x.teN = s.teN := by rw [hframe]
  obtain ⟨-, hny, hsilent'⟩ := bflies_silent (hn ▸ stages_in_range hs hv) htwx hsilent hy
  have hout : ∀ k, k ≤ s.teN / 2 → memRead w.out k = some 0 := magkList_of_silent (by omega) hsilent' hw
  exact hout

end Sys2Proof.Machine
end

section
/-! The numbers behind magnitude bits (R110): they rise with the bits, so that patterns compare as what they denote
(R117). -/

namespace Sys2Proof.Machine

/-! ## Magnitudes in units of the smallest subnormal -/

/-- What magnitude bits denote, in units of the smallest subnormal; at the pattern of infinity, the first power of two
beyond the finite numbers. -/
def magUnits (f : Flen) (n : Nat) : Nat := significand f n * 2 ^ (n / 2 ^ fracBits f - 1)

/-- Magnitude bits as a scale `E` and a significand, with the hidden bit carried into the exponent field; the
significand may be the one that belongs to the next scale. -/
theorem magUnits_of_scale (f : Flen) {E sig : Nat} (hsig : sig ≤ 2 * 2 ^ fracBits f)
    (hE : E = 0 ∨ 2 ^ fracBits f ≤ sig) :
    magUnits f (E * 2 ^ fracBits f + sig) = sig * 2 ^ E := by
  have hone : 0 < 2 ^ fracBits f := Nat.two_pow_pos _
  unfold magUnits significand
  generalize 2 ^ fracBits f = P at *
  obtain hsub | hnormal := Nat.lt_or_ge sig P
  · obtain rfl : E = 0 := hE.resolve_right (by omega)
    simp [Nat.div_eq_of_lt hsub, hsub]
  · obtain ⟨r, rfl⟩ := Nat.exists_eq_add_of_le hnormal
    have hbits : E * P + (P + r) = P * (E + 1) + r := by ring
    have hbig : ¬ P * (E + 1) + r < P := by
      have := Nat.le_mul_of_pos_right P (Nat.succ_pos E)
      omega
    rw [hbits, if_neg hbig]
    obtain hr | rfl := Nat.lt_or_eq_of_le (by omega : r ≤ P)
    · rw [Nat.mul_add_mod, Nat.mul_add_div hone, Nat.div_eq_of_lt hr, Nat.mod_eq_of_lt hr, Nat.add_comm r]
      simp
    · rw [Nat.mul_add_mod, Nat.mul_add_div hone, Nat.div_self hone, Nat.mod_self]
      simp only [Nat.add_sub_cancel, Nat.pow_succ]
      ring

theorem exists_scale (f : Flen) (n : Nat) : ∃ E sig, n = E * 2 ^ fracBits f + sig ∧ sig < 2 * 2 ^ fracBits f ∧
    (E = 0 ∨ 2 ^ fracBits f ≤ sig) := by
  have hone : 0 < 2 ^ fracBits f := Nat.two_pow_pos _
  obtain hsub | hnormal := Nat.lt_or_ge n (2 ^ fracBits f)
  · exact ⟨0, n, by omega, by omega, .inl rfl⟩
  · have hmod := Nat.mod_lt n hone
    have hdiv := Nat.div_add_mod' n (2 ^ fracBits f)
    obtain ⟨E, hE⟩ := Nat.exists_eq_add_of_le' (Nat.div_pos hnormal hone)
    rw [hE, Nat.add_mul] at hdiv
    exact ⟨E, 2 ^ fracBits f + n % 2 ^ fracBits f, by omega, by omega, .inr (by omega)⟩

theorem magUnits_strictMono (f : Flen) : StrictMono (magUnits f) := by
  refine strictMono_nat_of_lt_succ fun n => ?_
  obtain ⟨E, sig, rfl, hsig, hE⟩ := exists_scale f n
  rw [Nat.add_assoc, magUnits_of_scale f (by omega) hE, magUnits_of_scale f (by omega) (hE.imp_right (by omega))]
  exact Nat.mul_lt_mul_of_pos_right (Nat.lt_succ_self sig) (Nat.two_pow_pos E)

@[simp] theorem magUnits_zero (f : Flen) : magUnits f 0 = 0 := by simp [magUnits, significand]

/-! ## Finite values -/

theorem signed_eq_mul (s : Bool) (m : Nat) : signed s m = (if s then -1 else 1) * (m : Int) := by
  cases s <;> simp [signed]

/-- A finite pattern denotes its magnitude in units, with its sign. -/
theorem finiteValue_of_lt {f : Flen} {w : T} (h : magBits f w < infPattern f) :
    finiteValue f w = some ((signed (signBit f w) (magUnits f (magBits f w)) : Int) * (2 : ℚ) ^ expMin f) := by
  rw [finiteValue, unpack_finite h]
  simp only [ratOf, signed_eq_mul, magUnits, Option.some.injEq]
  rw [zpow_add₀ two_ne_zero, zpow_natCast]
  push_cast
  ring

theorem lt_infPattern_of_finiteValue {f : Flen} {w : T} {x : ℚ} (h : finiteValue f w = some x) :
    magBits f w < infPattern f := by
  rw [finiteValue] at h
  split at h
  · next hu => exact (finite_of_unpack hu).1
  · cases h

theorem eq_of_finiteValue {f : Flen} {w : T} {x : ℚ} (h : finiteValue f w = some x) :
    x = (signed (signBit f w) (magUnits f (magBits f w)) : Int) * (2 : ℚ) ^ expMin f :=
  Option.some.inj (h.symm.trans (finiteValue_of_lt (lt_infPattern_of_finiteValue h)))

/-! ## Comparisons (R117) -/

/-- Signed numbers compare alike before and after a strictly rising function that keeps 0. -/
theorem signed_lt_signed_iff {g : Nat → Nat} (hg : StrictMono g) (h0 : g 0 = 0) (s t : Bool) (m n : Nat) :
    signed s (g m) < signed t (g n) ↔ signed s m < signed t n := by
  have hmn := hg.lt_iff_lt (a := m) (b := n)
  have hnm := hg.lt_iff_lt (a := n) (b := m)
  have hm := hg.lt_iff_lt (a := 0) (b := m)
  have hn := hg.lt_iff_lt (a := 0) (b := n)
  rw [h0] at hm hn
  cases s <;> cases t <;> simp only [signed, if_true, if_false, Bool.false_eq_true] <;> omega

theorem orderKey_eq (f : Flen) (w : T) : orderKey f w = signed (signBit f w) (magBits f w) := rfl

theorem orderKey_lt_iff {f : Flen} {a b : T} {x y : ℚ} (ha : finiteValue f a = some x)
    (hb : finiteValue f b = some y) :
    orderKey f b < orderKey f a ↔ y < x := by
  rw [eq_of_finiteValue ha, eq_of_finiteValue hb, mul_lt_mul_iff_left₀ (by positivity), Int.cast_lt,
    signed_lt_signed_iff (magUnits_strictMono f) (magUnits_zero f), orderKey_eq, orderKey_eq]

section

variable {f : Flen} {a b : T}

theorem fgt_iff (ha : isNaN f a = false) (hb : isNaN f b = false) :
    fgt f a b = true ↔ orderKey f b < orderKey f a := by
  simp [fgt, ha, hb]

theorem fle_iff (ha : isNaN f a = false) (hb : isNaN f b = false) :
    fle f a b = true ↔ orderKey f a ≤ orderKey f b := by
  simp [fle, ha, hb]

theorem compare_nan (h : isNaN f a = true ∨ isNaN f b = true) : fgt f a b = false ∧ fle f a b = false := by
  rcases h with h | h <;> simp [fgt, fle, h]

theorem isNaN_of_finiteValue {x : ℚ} (h : finiteValue f a = some x) : isNaN f a = false := by
  have hlt := lt_infPattern_of_finiteValue h
  rw [← Bool.not_eq_true, isNaN_iff]
  omega

theorem isNaN_of_inf {s : Bool} (h : unpack f a = .inf s) : isNaN f a = false := by
  rw [isNaN, h]
  rfl

/-- The key of an infinity is at the end of the order of its sign, and is its alone. -/
theorem orderKey_inf {s : Bool} (ha : unpack f a = .inf s) : orderKey f a = signed s (infPattern f) := by
  obtain ⟨hsign, hmag⟩ := unpack_eq_inf_iff.1 ha
  rw [orderKey_eq, hsign, hmag]

theorem orderKey_bounds (hb : isNaN f b = false) :
    -(infPattern f : Int) ≤ orderKey f b ∧ orderKey f b ≤ infPattern f ∧
      (orderKey f b = infPattern f ↔ unpack f b = .inf false) ∧
      (orderKey f b = -(infPattern f : Int) ↔ unpack f b = .inf true) := by
  have hle : magBits f b ≤ infPattern f := by
    rw [← Bool.not_eq_true, isNaN_iff] at hb
    omega
  have hpos := infPattern_pos f
  simp only [unpack_eq_inf_iff, orderKey_eq]
  cases signBit f b <;> simp [signed] <;> omega

end

/-- Settles O48: comparisons are those of the keys, and the keys are in the order of the numbers. -/
theorem comparisonsFollowTheNumbers : Obligations.ComparisonsFollowTheNumbers := by
  intro f a b
  refine ⟨compare_nan, fun x y _ _ hx hy => ?_, fun ha hb => ?_, fun ha hb => ?_⟩
  · have ha := isNaN_of_finiteValue hx
    have hb := isNaN_of_finiteValue hy
    exact ⟨(fgt_iff ha hb).trans (orderKey_lt_iff hx hy),
      (fle_iff ha hb).trans (by rw [← not_lt, orderKey_lt_iff hx hy, not_lt])⟩
  · have hna := isNaN_of_inf ha
    obtain ⟨-, hmax, hinf, -⟩ := orderKey_bounds hb
    have hkey : orderKey f a = infPattern f := orderKey_inf ha
    rw [← Bool.not_eq_true, fle_iff hb hna, fgt_iff hb hna, fgt_iff hna hb, fle_iff hna hb, hkey, ne_eq, ← hinf]
    omega
  · have hna := isNaN_of_inf ha
    obtain ⟨hmin, -, -, hinf⟩ := orderKey_bounds hb
    have hkey : orderKey f a = -(infPattern f : Int) := orderKey_inf ha
    rw [← Bool.not_eq_true, fle_iff hna hb, fgt_iff hna hb, fgt_iff hb hna, fle_iff hb hna, hkey, ne_eq, ← hinf]
    omega

end Sys2Proof.Machine
end

section
/-! Rounding to the nearest number, ties to even (R111, R114): what `roundMag` gives is the magnitude whose middles to
its two neighbours enclose the exact value. The exact value is a real number, so that it may be a square root. -/

namespace Sys2Proof.Machine

/-! ## Magnitudes as real numbers -/

/-- What magnitude bits denote. -/
noncomputable def magVal (f : Flen) (n : Nat) : ℝ := magUnits f n * (2 : ℝ) ^ expMin f

/-- The middle between a magnitude and the next one. -/
noncomputable def middle (f : Flen) (n : Nat) : ℝ := (magVal f n + magVal f (n + 1)) / 2

theorem magVal_strictMono (f : Flen) : StrictMono (magVal f) := fun _ _ h =>
  mul_lt_mul_of_pos_right (Nat.cast_lt.2 (magUnits_strictMono f h)) (by positivity)

@[simp] theorem magVal_zero (f : Flen) : magVal f 0 = 0 := by simp [magVal]

theorem magVal_of_scale (f : Flen) {E sig : Nat} (hsig : sig ≤ 2 * 2 ^ fracBits f)
    (hE : E = 0 ∨ 2 ^ fracBits f ≤ sig) :
    magVal f (E * 2 ^ fracBits f + sig) = sig * (2 : ℝ) ^ (expMin f + E) := by
  rw [magVal, magUnits_of_scale f hsig hE, zpow_add₀ two_ne_zero, zpow_natCast]
  push_cast
  ring

section

variable {f : Flen} {n k : Nat}

theorem magVal_lt_middle : magVal f n < middle f n := by
  have := magVal_strictMono f (Nat.lt_succ_self n)
  unfold middle
  linarith

theorem middle_lt_magVal : middle f n < magVal f (n + 1) := by
  have := magVal_strictMono f (Nat.lt_succ_self n)
  unfold middle
  linarith

theorem middle_strictMono (f : Flen) : StrictMono (middle f) :=
  strictMono_nat_of_lt_succ fun _ => middle_lt_magVal.trans magVal_lt_middle

/-! ## The nearest magnitude -/

/-- The magnitude `n` is nearest to `v`: `v` lies between the middles to its neighbours, and on one of them only where
`n` is even. The finite numbers go on beyond the pattern of infinity here. -/
structure NearestMag (f : Flen) (v : ℝ) (n : Nat) : Prop where
  le_middle : v ≤ middle f n
  tie_above : v = middle f n → n % 2 = 0
  middle_le : ∀ k, k + 1 = n → middle f k ≤ v
  tie_below : ∀ k, k + 1 = n → v = middle f k → n % 2 = 0

variable {v v' : ℝ} {n' : Nat}

/-- A larger number has no smaller nearest magnitude. -/
theorem NearestMag.mono (h : NearestMag f v n) (h' : NearestMag f v' n') (hv : v ≤ v') : n ≤ n' := by
  by_contra hlt
  obtain ⟨k, rfl⟩ := Nat.exists_eq_add_of_lt (Nat.lt_of_not_le hlt)
  have hbelow := h.middle_le (n' + k) rfl
  have hmid : middle f n' ≤ middle f (n' + k) := (middle_strictMono f).monotone (Nat.le_add_right _ _)
  have habove := h'.le_middle
  have heq : middle f (n' + k) = middle f n' := by linarith
  have hk : n' + k = n' := (middle_strictMono f).injective heq
  have hodd := h.tie_below (n' + k) rfl (by linarith)
  have heven := h'.tie_above (by linarith)
  omega

theorem nearestMag_self (f : Flen) (k : Nat) : NearestMag f (magVal f k) k :=
  { le_middle := magVal_lt_middle.le
    tie_above := fun heq => absurd heq magVal_lt_middle.ne
    middle_le := fun _ hj => hj ▸ middle_lt_magVal.le
    tie_below := fun _ hj heq => absurd heq (hj ▸ middle_lt_magVal.ne') }

/-- A magnitude is nearest to itself alone. -/
theorem NearestMag.eq_of_magVal (h : NearestMag f (magVal f k) n) : n = k :=
  Nat.le_antisymm (h.mono (nearestMag_self f k) le_rfl) ((nearestMag_self f k).mono h le_rfl)

/-- A number above the middle of two magnitudes is no nearer to the lower one; at the middle they are as near. -/
theorem dist_le_of_middle_le {a b : ℝ} (hab : a < b) (h : (a + b) / 2 ≤ v) :
    |v - b| ≤ |v - a| ∧ (|v - b| = |v - a| → v = (a + b) / 2) := by
  have ha : |v - a| = v - a := abs_of_nonneg (by linarith)
  rw [ha]
  rcases abs_cases (v - b) with ⟨hb, -⟩ | ⟨hb, -⟩ <;> rw [hb]
  · exact ⟨by linarith, fun heq => by linarith⟩
  · exact ⟨by linarith, fun heq => by linarith⟩

theorem dist_le_of_le_middle {a b : ℝ} (hab : a < b) (h : v ≤ (a + b) / 2) :
    |v - a| ≤ |v - b| ∧ (|v - a| = |v - b| → v = (a + b) / 2) := by
  have hb : |v - b| = b - v := by rw [abs_sub_comm]; exact abs_of_nonneg (by linarith)
  rw [hb]
  rcases abs_cases (v - a) with ⟨ha, -⟩ | ⟨ha, -⟩ <;> rw [ha]
  · exact ⟨by linarith, fun heq => by linarith⟩
  · exact ⟨by linarith, fun heq => by linarith⟩

/-- The nearest magnitude and a smaller one: their middle is not above the number. -/
theorem NearestMag.middle_le_of_lt (h : NearestMag f v n) (hk : k < n) :
    (magVal f k + magVal f n) / 2 ≤ v ∧ (v = (magVal f k + magVal f n) / 2 → n % 2 = 0) := by
  obtain ⟨j, rfl⟩ := Nat.exists_eq_add_of_lt hk
  have hle : magVal f k ≤ magVal f (k + j) := (magVal_strictMono f).monotone (Nat.le_add_right _ _)
  have hmid := h.middle_le (k + j) rfl
  have hbound : (magVal f k + magVal f (k + j + 1)) / 2 ≤ middle f (k + j) := by
    unfold middle
    linarith
  exact ⟨hbound.trans hmid, fun heq => h.tie_below (k + j) rfl (by linarith)⟩

theorem NearestMag.le_middle_of_lt (h : NearestMag f v n) (hk : n < k) :
    v ≤ (magVal f n + magVal f k) / 2 ∧ (v = (magVal f n + magVal f k) / 2 → n % 2 = 0) := by
  have hle : magVal f (n + 1) ≤ magVal f k := (magVal_strictMono f).monotone hk
  have hmid := h.le_middle
  have hbound : middle f n ≤ (magVal f n + magVal f k) / 2 := by
    unfold middle
    linarith
  exact ⟨hmid.trans hbound, fun heq => h.tie_above (by linarith)⟩

/-- No magnitude is nearer than the nearest one, and another that is as near makes it even. -/
theorem NearestMag.dist_le (h : NearestMag f v n) (k : Nat) :
    |v - magVal f n| ≤ |v - magVal f k| ∧ (|v - magVal f n| = |v - magVal f k| → k ≠ n → n % 2 = 0) := by
  rcases Nat.lt_trichotomy k n with hlt | rfl | hgt
  · obtain ⟨hmid, htie⟩ := h.middle_le_of_lt hlt
    obtain ⟨hdist, heq⟩ := dist_le_of_middle_le (magVal_strictMono f hlt) hmid
    exact ⟨hdist, fun he _ => htie (heq he)⟩
  · exact ⟨le_rfl, fun _ hne => absurd rfl hne⟩
  · obtain ⟨hmid, htie⟩ := h.le_middle_of_lt hgt
    obtain ⟨hdist, heq⟩ := dist_le_of_le_middle (magVal_strictMono f hgt) hmid
    exact ⟨hdist, fun he _ => htie (heq he)⟩

end

/-! ## Rounding to an integer -/

/-- `n` is the integer nearest to `w`, ties to even. -/
structure NearestInt (w : ℝ) (n : Nat) : Prop where
  le_half : w ≤ n + 1 / 2
  tie_above : w = n + 1 / 2 → n % 2 = 0
  half_le : n - 1 / 2 ≤ w
  tie_below : w = n - 1 / 2 → n % 2 = 0

theorem nearestInt_self (n : Nat) : NearestInt n n :=
  ⟨by linarith, fun h => by linarith, by linarith, fun h => by linarith⟩

/-- The whole part `m` of `w`, and whether something was cut off. -/
structure Truncated (w : ℝ) (m : Nat) (sticky : Bool) : Prop where
  le : (m : ℝ) ≤ w
  lt : w < m + 1
  sticky_iff : sticky = true ↔ w ≠ m

theorem truncated_self (m : Nat) : Truncated m m false := ⟨le_rfl, by linarith, by simp⟩

/-- Nearest in units of `2 * h`: the half unit is `h`. -/
theorem nearestInt_div {w h : ℝ} {n : Nat} (hh : 0 < h) (above : w ≤ n * (2 * h) + h)
    (tieAbove : w = n * (2 * h) + h → n % 2 = 0) (below : n * (2 * h) - h ≤ w)
    (tieBelow : w = n * (2 * h) - h → n % 2 = 0) : NearestInt (w / (2 * h)) n := by
  have hunit : 0 < 2 * h := by linarith
  have hup : ((n : ℝ) + 1 / 2) * (2 * h) = n * (2 * h) + h := by ring
  have hdown : ((n : ℝ) - 1 / 2) * (2 * h) = n * (2 * h) - h := by ring
  refine ⟨?_, fun heq => tieAbove ?_, ?_, fun heq => tieBelow ?_⟩
  · rwa [div_le_iff₀ hunit, hup]
  · rwa [div_eq_iff hunit.ne', hup] at heq
  · rwa [le_div_iff₀ hunit, hdown]
  · rwa [div_eq_iff hunit.ne', hdown] at heq

/-- R111: the rest against one half, a tie to even. -/
theorem roundShift_nearest {w : ℝ} {m k : Nat} {sticky : Bool} (hw : Truncated w m sticky) (hk : 1 ≤ k) :
    NearestInt (w / 2 ^ k) (roundShift m k sticky) := by
  obtain ⟨j, rfl⟩ := Nat.exists_eq_add_of_le' hk
  obtain ⟨hle, hlt, hsticky⟩ := hw
  have hrem : m % 2 ^ (j + 1) < 2 * 2 ^ j := Nat.pow_succ' ▸ Nat.mod_lt m (Nat.two_pow_pos _)
  have hm : (m : ℝ) = (m / 2 ^ (j + 1) : Nat) * (2 * 2 ^ j) + (m % 2 ^ (j + 1) : Nat) := by
    rw [← pow_succ']
    exact_mod_cast (Nat.div_add_mod' m (2 ^ (j + 1))).symm
  have hhalf : (0 : ℝ) < 2 ^ j := by positivity
  simp only [roundShift, Nat.add_sub_cancel]
  rw [pow_succ']
  generalize m / 2 ^ (j + 1) = quo at *
  generalize m % 2 ^ (j + 1) = rem at *
  split_ifs with hup
  · have hge : (2 : ℝ) ^ j ≤ rem := by exact_mod_cast (by omega : 2 ^ j ≤ rem)
    have hrem : (rem : ℝ) + 1 ≤ 2 * 2 ^ j := by exact_mod_cast hrem
    refine nearestInt_div hhalf ?_ (fun heq => ?_) ?_ (fun heq => ?_) <;> push_cast at *
    · linarith
    · linarith
    · linarith
    · have hexact : w = m := by linarith
      have htie : rem = 2 ^ j := by exact_mod_cast (by linarith : (rem : ℝ) = 2 ^ j)
      have hodd := (hup.resolve_left (by omega)).2.resolve_left fun hs => hsticky.1 hs hexact
      omega
  · have hle' : rem ≤ 2 ^ j := by omega
    have hrem' : (rem : ℝ) ≤ 2 ^ j := by exact_mod_cast hle'
    have hrem0 : (0 : ℝ) ≤ rem := Nat.cast_nonneg _
    have hbelow : rem < 2 ^ j → w < quo * (2 * 2 ^ j) + 2 ^ j := fun hlow => by
      have : (rem : ℝ) + 1 ≤ 2 ^ j := by exact_mod_cast hlow
      linarith
    refine nearestInt_div hhalf ?_ (fun heq => ?_) ?_ (fun heq => ?_)
    · obtain hlow | rfl := Nat.lt_or_eq_of_le hle'
      · exact (hbelow hlow).le
      · have hexact : w = m := by
          by_contra hne
          exact hup (.inr ⟨rfl, .inl (hsticky.2 hne)⟩)
        push_cast at hm
        linarith
    · have htie : rem = 2 ^ j := hle'.eq_of_not_lt fun hlow => (hbelow hlow).ne heq
      by_contra hodd
      exact hup (.inr ⟨htie, .inr (by omega)⟩)
    · linarith
    · linarith

/-! ## Rounding to a magnitude -/

section

variable {f : Flen} {v : ℝ}

theorem middle_of_scale (f : Flen) {E sig : Nat} (hsig : sig < 2 * 2 ^ fracBits f)
    (hE : E = 0 ∨ 2 ^ fracBits f ≤ sig) :
    middle f (E * 2 ^ fracBits f + sig) = (sig + 1 / 2) * 2 ^ (expMin f + E) := by
  rw [middle, Nat.add_assoc, magVal_of_scale f hsig.le hE,
    magVal_of_scale f (Nat.succ_le_of_lt hsig) (hE.imp_right (by omega))]
  push_cast
  ring

/-- The neighbour above is one unit away, or beyond the end of the scale. -/
theorem le_middle_of_scale {E sig : Nat} (hsig : NearestInt (v / 2 ^ (expMin f + E)) sig)
    (hle : sig ≤ 2 * 2 ^ fracBits f) (hge : E = 0 ∨ 2 ^ fracBits f ≤ sig)
    (hlt : v / 2 ^ (expMin f + E) < 2 * 2 ^ fracBits f) :
    v ≤ middle f (E * 2 ^ fracBits f + sig) ∧ (v = middle f (E * 2 ^ fracBits f + sig) → sig % 2 = 0) := by
  have hunit : (0 : ℝ) < 2 ^ (expMin f + E) := by positivity
  obtain hinside | rfl := Nat.lt_or_eq_of_le hle
  · rw [middle_of_scale f hinside hge, ← div_le_iff₀ hunit, ← div_eq_iff hunit.ne']
    exact ⟨hsig.le_half, hsig.tie_above⟩
  · have hend : v < magVal f (E * 2 ^ fracBits f + 2 * 2 ^ fracBits f) := by
      rw [magVal_of_scale f hle hge, ← div_lt_iff₀ hunit]
      exact_mod_cast hlt
    have hmid := hend.trans magVal_lt_middle
    exact ⟨hmid.le, fun heq => absurd heq hmid.ne⟩

/-- The neighbour below is one unit away, or the number is not below the start of the scale. -/
theorem middle_le_of_scale {E sig : Nat} (hsig : NearestInt (v / 2 ^ (expMin f + E)) sig)
    (hle : sig ≤ 2 * 2 ^ fracBits f) (hge : E = 0 ∨ 2 ^ fracBits f ≤ sig)
    (hE : E = 0 ∨ 2 ^ fracBits f ≤ v / 2 ^ (expMin f + E)) {k : Nat} (hk : k + 1 = E * 2 ^ fracBits f + sig) :
    middle f k ≤ v ∧ (v = middle f k → sig % 2 = 0) := by
  have hunit : (0 : ℝ) < 2 ^ (expMin f + E) := by positivity
  have hone := Nat.two_pow_pos (fracBits f)
  by_cases hstart : E ≠ 0 ∧ sig = 2 ^ fracBits f
  · obtain ⟨hne, rfl⟩ := hstart
    have hstart : magVal f (k + 1) ≤ v := by
      rw [hk, magVal_of_scale f hle hge, ← le_div_iff₀ hunit]
      exact_mod_cast hE.resolve_left hne
    have hmid := middle_lt_magVal.trans_le hstart
    exact ⟨hmid.le, fun heq => absurd heq hmid.ne'⟩
  · have hpos : 0 < sig := by
      rcases hge with rfl | hge
      · omega
      · omega
    obtain ⟨r, rfl⟩ := Nat.exists_eq_add_of_le' hpos
    obtain rfl : k = E * 2 ^ fracBits f + r := by omega
    have hhalf : (r : ℝ) + 1 / 2 = (r + 1 : Nat) - 1 / 2 := by
      push_cast
      ring
    rw [middle_of_scale f (by omega) (by omega), ← le_div_iff₀ hunit, ← div_eq_iff hunit.ne', hhalf]
    exact ⟨hsig.half_le, hsig.tie_below⟩

/-- A significand that is nearest at its scale is the nearest magnitude. -/
theorem nearestMag_of_scale {E sig : Nat} (hsig : NearestInt (v / 2 ^ (expMin f + E)) sig)
    (hlt : v / 2 ^ (expMin f + E) < 2 * 2 ^ fracBits f) (hE : E = 0 ∨ 2 ^ fracBits f ≤ v / 2 ^ (expMin f + E)) :
    NearestMag f v (E * 2 ^ fracBits f + sig) := by
  have heven : (E * 2 ^ fracBits f + sig) % 2 = sig % 2 := by
    have : 2 ^ fracBits f % 2 = 0 := by cases f <;> rfl
    rw [Nat.add_mod, Nat.mul_mod, this, Nat.mul_zero, Nat.zero_mod, Nat.zero_add, Nat.mod_mod]
  have hlow := hsig.half_le
  have hhigh := hsig.le_half
  have hle : sig ≤ 2 * 2 ^ fracBits f := by
    have : (sig : ℝ) < 2 * 2 ^ fracBits f + 1 := by linarith
    exact Nat.lt_succ_iff.1 (by exact_mod_cast this)
  have hge : E = 0 ∨ 2 ^ fracBits f ≤ sig := hE.imp_right fun hE => by
    have : (2 : ℝ) ^ fracBits f < sig + 1 := by linarith
    exact Nat.lt_succ_iff.1 (by exact_mod_cast this)
  have habove := le_middle_of_scale hsig hle hge hlt
  have hbelow := fun k hk => middle_le_of_scale hsig hle hge hE (k := k) hk
  exact ⟨habove.1, heven ▸ habove.2, fun k hk => (hbelow k hk).1, fun k hk => heven ▸ (hbelow k hk).2⟩

/-- The significand of R111 at the unit `2^q`: the integer as it is where `q` is not above its own unit `2^e`, and
rounded otherwise. -/
theorem significand_nearest {w : ℝ} {m : Nat} {e q : Int} {sticky : Bool} (hw : Truncated w m sticky)
    (hsticky : sticky = true → e < q) :
    NearestInt (w * 2 ^ (e - q)) (if q ≤ e then m * 2 ^ (e - q).toNat else roundShift m (q - e).toNat sticky) := by
  split_ifs with hqe
  · have hwhole : w = m := by
      by_contra hne
      have := hsticky (hw.sticky_iff.2 hne)
      omega
    obtain ⟨j, hj⟩ := Int.eq_ofNat_of_zero_le (Int.sub_nonneg.2 hqe)
    rw [hwhole, hj, Int.toNat_natCast, zpow_natCast]
    exact_mod_cast nearestInt_self (m * 2 ^ j)
  · obtain ⟨j, hj⟩ := Int.eq_ofNat_of_zero_le (Int.sub_nonneg.2 (Int.le_of_lt (Int.not_le.1 hqe)))
    have hneg : e - q = -(j : Int) := by omega
    rw [hj, Int.toNat_natCast, hneg, zpow_neg, zpow_natCast, ← div_eq_mul_inv]
    exact roundShift_nearest hw (by omega)

theorem log2_bounds {w : ℝ} {m : Nat} {sticky : Bool} (hm : m ≠ 0) (hw : Truncated w m sticky) :
    (2 : ℝ) ^ ((Nat.log2 m : Nat) : Int) ≤ w ∧ w < 2 ^ ((Nat.log2 m + 1 : Nat) : Int) := by
  have hlow : (2 : ℝ) ^ Nat.log2 m ≤ m := by exact_mod_cast Nat.log2_self_le hm
  have hhigh : (m : ℝ) + 1 ≤ 2 ^ (Nat.log2 m + 1) := by exact_mod_cast (Nat.lt_log2_self : m < 2 ^ (Nat.log2 m + 1))
  rw [zpow_natCast, zpow_natCast]
  exact ⟨hlow.trans hw.le, hw.lt.trans_le hhigh⟩

/-- R111, R113, R114: `roundMag` gives the nearest magnitude, cut off at infinity. -/
theorem roundMag_nearest {m : Nat} {e : Int} {sticky : Bool} (hm : m ≠ 0) (hv : Truncated (v / 2 ^ e) m sticky)
    (hbits : sticky = true → 2 ^ (fracBits f + 1) ≤ m) :
    ∃ n, roundMag f m e sticky = min n (infPattern f) ∧ NearestMag f v n := by
  simp only [roundMag, if_neg hm]
  set q : Int := max (e + (Nat.log2 m : Int) - (fracBits f : Int)) (expMin f) with hq
  obtain ⟨E, hE⟩ : ∃ E : Nat, q = expMin f + E := ⟨(q - expMin f).toNat, by omega⟩
  have hEq : (q - expMin f).toNat = E := by omega
  refine ⟨_, by rw [hEq], ?_⟩
  obtain ⟨hlow, hhigh⟩ := log2_bounds hm hv
  have hunit : (0 : ℝ) < 2 ^ (e - q) := by positivity
  have hscale : v / 2 ^ (expMin f + E) = v / 2 ^ e * 2 ^ (e - q) := by
    rw [← hE, zpow_sub₀ two_ne_zero]
    field_simp
  refine nearestMag_of_scale ?_ ?_ ?_ <;> rw [hscale]
  · refine significand_nearest hv fun hs => ?_
    have hbig : fracBits f + 1 ≤ Nat.log2 m := (Nat.le_log2 hm).2 (hbits hs)
    omega
  · have hexp : ((Nat.log2 m + 1 : Nat) : Int) + (e - q) ≤ (fracBits f + 1 : Nat) := by omega
    calc v / 2 ^ e * 2 ^ (e - q) < 2 ^ ((Nat.log2 m + 1 : Nat) : Int) * 2 ^ (e - q) :=
          mul_lt_mul_of_pos_right hhigh hunit
      _ = (2 : ℝ) ^ (((Nat.log2 m + 1 : Nat) : Int) + (e - q)) := (zpow_add₀ two_ne_zero _ _).symm
      _ ≤ (2 : ℝ) ^ ((fracBits f + 1 : Nat) : Int) := zpow_le_zpow_right₀ one_le_two hexp
      _ = 2 * 2 ^ fracBits f := by rw [zpow_natCast, pow_succ']
  · refine or_iff_not_imp_left.2 fun hE0 => ?_
    have hexp : ((fracBits f : Nat) : Int) = (Nat.log2 m : Nat) + (e - q) := by omega
    calc (2 : ℝ) ^ fracBits f = 2 ^ ((Nat.log2 m : Nat) : Int) * 2 ^ (e - q) := by
          rw [← zpow_natCast, hexp, zpow_add₀ two_ne_zero]
      _ ≤ v / 2 ^ e * 2 ^ (e - q) := mul_le_mul_of_nonneg_right hlow hunit.le

end

end Sys2Proof.Machine
end

section
/-! The correctly rounded operations (R111, R114, R118): each is `roundMag` of its exact result. -/

namespace Sys2Proof.Machine

/-! ## What a finite pattern denotes, as a real number -/

theorem magVal_nonneg (f : Flen) (n : Nat) : 0 ≤ magVal f n := by
  unfold magVal
  positivity

/-- The factor a sign stands for. -/
noncomputable def sgn (s : Bool) : ℝ := if s then -1 else 1

@[simp] theorem sgn_true : sgn true = -1 := rfl
@[simp] theorem sgn_false : sgn false = 1 := rfl

@[simp] theorem abs_sgn (s : Bool) : |sgn s| = 1 := by cases s <;> simp

theorem sgn_mul_self (s : Bool) : sgn s * sgn s = 1 := by cases s <;> simp

/-- Distances do not change when both signs are inverted. -/
theorem abs_sgn_mul_sub (s : Bool) (v y : ℝ) : |sgn s * v - y| = |v - sgn s * y| := by
  have hfactor : sgn s * v - y = sgn s * (v - sgn s * y) := by
    rw [mul_sub, ← mul_assoc, sgn_mul_self, one_mul]
  rw [hfactor, abs_mul, abs_sgn, one_mul]

theorem sgn_mul_abs {x : ℝ} {s : Bool} (h : s = decide (x < 0)) : sgn s * |x| = x := by
  by_cases hx : x < 0
  · simp [h, hx, abs_of_neg hx]
  · simp [h, hx, abs_of_nonneg (not_lt.1 hx)]

section

variable {f : Flen}

/-- A finite pattern denotes its magnitude with its sign. -/
theorem cast_finiteValue {w : T} {x : ℚ} (h : finiteValue f w = some x) :
    (x : ℝ) = sgn (signBit f w) * magVal f (magBits f w) := by
  rw [eq_of_finiteValue h, signed_eq_mul, magVal]
  push_cast
  cases signBit f w <;> simp

theorem finiteValue_packT {neg : Bool} {n : Nat} (h : n < infPattern f) :
    ∃ z, finiteValue f (packT f neg n) = some z ∧ (z : ℝ) = sgn neg * magVal f n := by
  have hval := finiteValue_of_lt (w := packT f neg n) (by rwa [magBits_packT h.le])
  exact ⟨_, hval, by rw [cast_finiteValue hval, signBit_packT h.le, magBits_packT h.le]⟩

theorem ratOf_eq_mul (s : Bool) (m : Nat) (e : Int) :
    (ratOf s m e : ℝ) = sgn s * (m * (2 : ℝ) ^ e) := by
  rw [ratOf]
  push_cast
  cases s <;> simp

theorem abs_ratOf (s : Bool) (m : Nat) (e : Int) : |(ratOf s m e : ℝ)| = m * (2 : ℝ) ^ e := by
  have hpos : (0 : ℝ) ≤ m * (2 : ℝ) ^ e := by positivity
  rw [ratOf_eq_mul, abs_mul, abs_sgn, one_mul, abs_of_nonneg hpos]

theorem ratOf_eq_zero_iff {s : Bool} {m : Nat} {e : Int} : ratOf s m e = 0 ↔ m = 0 := by
  cases s <;> simp [ratOf, zpow_ne_zero]

/-- The sign of a non-zero number is that of its significand. -/
theorem ratOf_neg_iff {s : Bool} {m : Nat} {e : Int} (hm : m ≠ 0) : ratOf s m e < 0 ↔ s = true := by
  have hpos : (0 : ℚ) < m * 2 ^ e := by
    have : (0 : ℚ) < m := by exact_mod_cast Nat.pos_of_ne_zero hm
    positivity
  cases s with
  | false => simp [ratOf, hpos.le]
  | true =>
    simp only [ratOf, if_true, iff_true]
    linarith

theorem unpack_of_finiteValue {w : T} {x : ℚ} (h : finiteValue f w = some x) :
    ∃ s m e, unpack f w = .fin s m e ∧ x = ratOf s m e := by
  rw [finiteValue] at h
  split at h
  · next s m e hu => exact ⟨s, m, e, hu, (Option.some.inj h).symm⟩
  · cases h

/-! ## From the nearest magnitude to R111 -/

/-- The scale of the largest finite numbers, at whose end the pattern of infinity stands. -/
def lastScale (f : Flen) : Nat := 2 ^ expBits f - 3

theorem infPattern_eq (f : Flen) : infPattern f = lastScale f * 2 ^ fracBits f + 2 * 2 ^ fracBits f := by
  have hexp : 2 ^ expBits f - 1 = lastScale f + 2 := by cases f <;> rfl
  rw [infPattern, hexp, Nat.add_mul]

theorem magVal_infPattern (f : Flen) :
    magVal f (infPattern f) = 2 * 2 ^ fracBits f * 2 ^ (expMin f + lastScale f) := by
  rw [infPattern_eq, magVal_of_scale f le_rfl (.inr (by omega))]
  push_cast
  rfl

theorem magVal_largest (f : Flen) :
    magVal f (infPattern f - 1) = (2 * 2 ^ fracBits f - 1) * 2 ^ (expMin f + lastScale f) := by
  have hone : 0 < 2 ^ fracBits f := Nat.two_pow_pos _
  have hlast : infPattern f - 1 = lastScale f * 2 ^ fracBits f + (2 * 2 ^ fracBits f - 1) := by
    rw [infPattern_eq]
    omega
  rw [hlast, magVal_of_scale f (by omega) (.inr (by omega)), Nat.cast_sub (by omega)]
  push_cast
  rfl

/-- Infinity is where the finite numbers would go on: the middle before it is where overflow begins. -/
theorem cast_overflowAt (f : Flen) : (overflowAt f : ℝ) = middle f (infPattern f - 1) := by
  rw [middle, Nat.sub_add_cancel (infPattern_pos f), magVal_largest, magVal_infPattern, overflowAt, ← lastScale]
  push_cast
  ring

theorem infPattern_mod_two (f : Flen) : infPattern f % 2 = 0 := by cases f <;> rfl

section

variable {v : ℝ} {n : Nat}

/-- R111: overflow begins half a unit above the largest finite number. -/
theorem NearestMag.overflow_iff (h : NearestMag f v n) : infPattern f ≤ n ↔ (overflowAt f : ℝ) ≤ v := by
  have hpos := infPattern_pos f
  have heven := infPattern_mod_two f
  rw [cast_overflowAt]
  constructor
  · intro hn
    obtain ⟨k, rfl⟩ := Nat.exists_eq_add_of_le' (hpos.trans_le hn)
    exact ((middle_strictMono f).monotone (by omega)).trans (h.middle_le k rfl)
  · intro hv
    by_contra hlt
    have hle : n ≤ infPattern f - 1 := by omega
    obtain rfl | hlt := Nat.eq_or_lt_of_le hle
    · have := h.tie_above (le_antisymm h.le_middle hv)
      omega
    · exact absurd (hv.trans h.le_middle) (not_le.2 (middle_strictMono f hlt))

/-- No finite number, of either sign, is nearer to `v > 0` than its nearest magnitude. -/
theorem NearestMag.dist_le_signed (h : NearestMag f v n) (hv : 0 < v) {y : ℝ} {k : Nat} (hy : |y| = magVal f k) :
    |v - magVal f n| ≤ |v - y| ∧ (|v - magVal f n| = |v - y| → y ≠ magVal f n → n % 2 = 0) := by
  obtain hpos | hneg := le_or_gt 0 y
  · rw [abs_of_nonneg hpos] at hy
    rw [hy]
    obtain ⟨hdist, htie⟩ := h.dist_le k
    exact ⟨hdist, fun heq hne => htie heq fun hk => hne (by rw [hk])⟩
  · have hdist := (h.dist_le 0).1
    rw [magVal_zero, sub_zero, abs_of_pos hv] at hdist
    have hfar : |v - y| = v - y := abs_of_pos (by linarith)
    exact ⟨by linarith, fun heq => absurd heq (by linarith)⟩

end

/-- The nearest magnitude of `|x|`, cut off at infinity, with the sign of `x`, is `x` rounded. -/
theorem isRounded_of_nearest {x : ℚ} {n : Nat} (hx : x ≠ 0) (h : NearestMag f |(x : ℝ)| n) :
    IsRounded f x (packT f (decide (x < 0)) (min n (infPattern f))) := by
  have hpos : (0 : ℝ) < |(x : ℝ)| := abs_pos.2 (by exact_mod_cast hx)
  refine ⟨fits_packT _ (Nat.min_le_right _ _), ?_⟩
  have hover : infPattern f ≤ n ↔ overflowAt f ≤ |x| := by
    rw [h.overflow_iff]
    exact_mod_cast Iff.rfl
  split_ifs with hbig
  · rw [Nat.min_eq_right (hover.2 hbig)]
    exact unpack_infT f _
  · have hn : n < infPattern f := Nat.lt_of_not_le fun hle => hbig (hover.1 hle)
    rw [Nat.min_eq_left hn.le]
    refine ⟨_, _, unpack_packT_finite hn, fun u y _ hy => ?_⟩
    obtain ⟨z, hz, hzval⟩ := finiteValue_packT (neg := decide (x < 0)) hn
    have hzrat : z = ratOf (decide (x < 0)) (significand f n) (expMin f + (n / 2 ^ fracBits f - 1 : Nat)) := by
      rw [finiteValue, unpack_packT_finite hn] at hz
      exact (Option.some.inj hz).symm
    rw [← hzrat, packT_toNat_mod_two hn.le]
    have hy : |sgn (decide (x < 0)) * (y : ℝ)| = magVal f (magBits f u) := by
      rw [cast_finiteValue hy, abs_mul, abs_mul, abs_sgn, abs_sgn, one_mul, one_mul, abs_of_nonneg (magVal_nonneg f _)]
    obtain ⟨hdist, htie⟩ := h.dist_le_signed hpos hy
    have hsign : sgn (decide (x < 0)) * |(x : ℝ)| = x := sgn_mul_abs (by simp)
    have hz' : sgn (decide (x < 0)) * (z : ℝ) = magVal f n := by rw [hzval, ← mul_assoc, sgn_mul_self, one_mul]
    rw [← hz', ← abs_sgn_mul_sub, ← abs_sgn_mul_sub, hsign] at hdist htie
    refine ⟨by exact_mod_cast hdist, fun heq hne => htie (by exact_mod_cast heq) fun h => hne ?_⟩
    have hnz : sgn (decide (x < 0)) ≠ 0 := left_ne_zero_of_mul_eq_one (sgn_mul_self _)
    exact_mod_cast mul_left_cancel₀ hnz h

/-! ## Sums, differences and products -/

/-- What the operations share: `m * 2^e`, exactly or cut off, is the magnitude of `x`, and the sign is that of `x`. -/
theorem isRounded_roundMag {x : ℚ} {neg sticky : Bool} {m : Nat} {e : Int} (hx : x ≠ 0)
    (hneg : neg = decide (x < 0)) (hm : m ≠ 0) (hv : Truncated (|(x : ℝ)| / 2 ^ e) m sticky)
    (hbits : sticky = true → 2 ^ (fracBits f + 1) ≤ m) :
    IsRounded f x (packT f neg (roundMag f m e sticky)) := by
  obtain ⟨n, hn, hnear⟩ := roundMag_nearest (f := f) hm hv hbits
  rw [hneg, hn]
  exact isRounded_of_nearest hx hnear

/-- A magnitude that is exactly `m * 2^e` is rounded once. -/
theorem isRounded_roundMag_exact {x : ℚ} {neg : Bool} {m : Nat} {e : Int} (hx : x ≠ 0)
    (hneg : neg = decide (x < 0)) (hv : |(x : ℝ)| = m * 2 ^ e) :
    IsRounded f x (packT f neg (roundMag f m e false)) := by
  have hunit : (2 : ℝ) ^ e ≠ 0 := zpow_ne_zero e two_ne_zero
  refine isRounded_roundMag hx hneg ?_ ?_ (by simp)
  · rintro rfl
    rw [Nat.cast_zero, zero_mul, abs_eq_zero] at hv
    exact hx (by exact_mod_cast hv)
  · rw [hv, mul_div_cancel_right₀ _ hunit]
    exact truncated_self m

section

variable {s t : Bool} {m n : Nat} {x y : Int}

theorem alignedSum_eq : (alignedSum s m x t n y : ℚ) * 2 ^ min x y = ratOf s m x + ratOf t n y := by
  have hx : (2 : ℚ) ^ x = 2 ^ (x - min x y).toNat * 2 ^ min x y := by
    rw [← zpow_natCast, ← zpow_add₀ two_ne_zero]
    congr 1
    omega
  have hy : (2 : ℚ) ^ y = 2 ^ (y - min x y).toNat * 2 ^ min x y := by
    rw [← zpow_natCast, ← zpow_add₀ two_ne_zero]
    congr 1
    omega
  rw [alignedSum, signed_eq_mul, signed_eq_mul, ratOf, ratOf]
  generalize min x y = e at *
  rw [hx, hy]
  push_cast
  ring

variable {a b : T} (d : Nat)

theorem fadd_isRounded (ha : unpack f a = .fin s m x) (hb : unpack f b = .fin t n y)
    (hne : ratOf s m x + ratOf t n y ≠ 0) : IsRounded f (ratOf s m x + ratOf t n y) (fadd f d a b) := by
  rw [← alignedSum_eq] at hne ⊢
  have hunit : (0 : ℚ) < 2 ^ min x y := by positivity
  have hz : alignedSum s m x t n y ≠ 0 := by
    have := left_ne_zero_of_mul hne
    exact_mod_cast this
  rw [fadd_fin_fin d ha hb, if_neg hz]
  refine isRounded_roundMag_exact hne ?_ ?_
  · rw [decide_eq_decide, mul_neg_iff]
    simp [hunit, hunit.le]
  · push_cast
    rw [abs_mul, abs_of_pos (by positivity : (0 : ℝ) < 2 ^ min x y), Nat.cast_natAbs]
    push_cast
    rfl

theorem ratOf_mul : ratOf s m x * ratOf t n y = ratOf (s ^^ t) (m * n) (x + y) := by
  simp only [ratOf]
  rw [zpow_add₀ two_ne_zero]
  push_cast
  cases s <;> cases t <;> simp <;> ring

theorem fmul_isRounded (ha : unpack f a = .fin s m x) (hb : unpack f b = .fin t n y)
    (hne : ratOf s m x * ratOf t n y ≠ 0) : IsRounded f (ratOf s m x * ratOf t n y) (fmul f d a b) := by
  rw [ratOf_mul] at hne ⊢
  rw [fmul_fin_fin d ha hb]
  refine isRounded_roundMag_exact hne ?_ (abs_ratOf _ _ _)
  rw [eq_comm, Bool.eq_iff_iff, decide_eq_true_eq]
  exact ratOf_neg_iff fun h => hne (ratOf_eq_zero_iff.2 h)

theorem ratOf_not : ratOf (!t) n y = -ratOf t n y := by cases t <;> simp [ratOf]

end

end

/-- Settles O45: each is `roundMag` of the exact result. -/
theorem sumAndProductRoundToNearestEven : Obligations.SumAndProductRoundToNearestEven := by
  intro f d a b x y _ _ hx hy
  obtain ⟨s, m, e, ha, rfl⟩ := unpack_of_finiteValue hx
  obtain ⟨t, n, e', hb, rfl⟩ := unpack_of_finiteValue hy
  refine ⟨fadd_isRounded d ha hb, fun hne => ?_, fmul_isRounded d ha hb⟩
  rw [sub_eq_add_neg, ← ratOf_not] at hne ⊢
  exact fadd_isRounded d ha (unpack_negT_fin hb) hne

end Sys2Proof.Machine
end

section
/-! The quotient, the square root and the conversion of integers (R111, R118): what is cut off before the rounding, and
what needs no rounding. -/

namespace Sys2Proof.Machine

/-! ## Quotients -/

theorem truncated_div (a : Nat) {n : Nat} (hn : n ≠ 0) :
    Truncated ((a : ℝ) / n) (a / n) (decide (a % n ≠ 0)) := by
  have hpos : (0 : ℝ) < n := by exact_mod_cast Nat.pos_of_ne_zero hn
  have ha : (a : ℝ) = (a / n : Nat) * n + (a % n : Nat) := by exact_mod_cast (Nat.div_add_mod' a n).symm
  have hrem : ((a % n : Nat) : ℝ) < n := by exact_mod_cast Nat.mod_lt a (Nat.pos_of_ne_zero hn)
  have hrem0 : (0 : ℝ) ≤ (a % n : Nat) := Nat.cast_nonneg _
  refine ⟨?_, ?_, ?_⟩
  · rw [le_div_iff₀ hpos]
    linarith
  · rw [div_lt_iff₀ hpos]
    linarith
  · rw [decide_eq_true_eq, not_iff_not, div_eq_iff hpos.ne']
    exact ⟨fun h => by rw [ha, h]; simp, fun h => by exact_mod_cast (by linarith : ((a % n : Nat) : ℝ) = 0)⟩

section

variable {f : Flen} {s t : Bool} {m n : Nat} {x y : Int} {a b : T} (d : Nat)

theorem ratOf_div_neg_iff (hm : m ≠ 0) (hn : n ≠ 0) : ratOf s m x / ratOf t n y < 0 ↔ (s ^^ t) = true := by
  rw [div_neg_iff, ← mul_neg_iff, ratOf_mul, ratOf_neg_iff (Nat.mul_ne_zero hm hn)]

/-- With `k` more bits in the dividend, the quotient is a fraction of integers over the scale it is rounded at. -/
theorem abs_ratOf_div (k : Nat) : |((ratOf s m x / ratOf t n y : ℚ) : ℝ)| / 2 ^ (x - y - (k : Int)) =
    ((m * 2 ^ k : Nat) : ℝ) / n := by
  rw [Rat.cast_div, abs_div, abs_ratOf, abs_ratOf, zpow_sub₀ two_ne_zero, zpow_sub₀ two_ne_zero, zpow_natCast]
  push_cast
  field_simp

theorem fdiv_isRounded (ha : unpack f a = .fin s m x) (hb : unpack f b = .fin t n y) (hm : m ≠ 0) (hn : n ≠ 0) :
    IsRounded f (ratOf s m x / ratOf t n y) (fdiv f d a b) := by
  obtain ⟨k, hk⟩ : ∃ k, k = fracBits f + 3 + Nat.log2 n := ⟨_, rfl⟩
  have hquot : 2 ^ (fracBits f + 1) ≤ m * 2 ^ k / n := by
    have hlog : n < 2 ^ (Nat.log2 n + 1) := Nat.lt_log2_self
    rw [Nat.le_div_iff_mul_le (Nat.pos_of_ne_zero hn)]
    calc 2 ^ (fracBits f + 1) * n ≤ 2 ^ (fracBits f + 1) * 2 ^ (Nat.log2 n + 1) := Nat.mul_le_mul_left _ hlog.le
      _ = 2 ^ (fracBits f + 1 + (Nat.log2 n + 1)) := (Nat.pow_add _ _ _).symm
      _ ≤ 2 ^ k := Nat.pow_le_pow_right (by decide) (by omega)
      _ ≤ m * 2 ^ k := Nat.le_mul_of_pos_left _ (Nat.pos_of_ne_zero hm)
  have hne : ratOf s m x / ratOf t n y ≠ 0 :=
    div_ne_zero (fun h => hm (ratOf_eq_zero_iff.1 h)) fun h => hn (ratOf_eq_zero_iff.1 h)
  have hsign : (s ^^ t) = decide (ratOf s m x / ratOf t n y < 0) := by
    rw [eq_comm, Bool.eq_iff_iff, decide_eq_true_eq, ratOf_div_neg_iff hm hn]
  have hbig := Nat.two_pow_pos (fracBits f + 1)
  rw [fdiv_fin_fin d ha hb hn hk]
  exact isRounded_roundMag hne hsign (by omega) (abs_ratOf_div k ▸ truncated_div _ hn) fun _ => hquot

end

/-! ## Square roots -/

theorem isqrtFrom_spec {n : Nat} : ∀ {k r : Nat}, r * r ≤ n → n < (r + 2 ^ k) * (r + 2 ^ k) →
    isqrtFrom n k r * isqrtFrom n k r ≤ n ∧ n < (isqrtFrom n k r + 1) * (isqrtFrom n k r + 1)
  | 0, _, hlow, hhigh => ⟨hlow, hhigh⟩
  | k + 1, r, hlow, hhigh => by
    rw [isqrtFrom]
    split_ifs with hbit
    · refine isqrtFrom_spec hbit ?_
      rwa [Nat.add_assoc, ← Nat.two_mul, ← Nat.pow_succ']
    · exact isqrtFrom_spec hlow (Nat.lt_of_not_le hbit)

theorem isqrt_eq_sqrt (n : Nat) : isqrt n = Nat.sqrt n := by
  have hhigh : n < (0 + 2 ^ (Nat.log2 n / 2 + 1)) * (0 + 2 ^ (Nat.log2 n / 2 + 1)) := by
    rw [Nat.zero_add, ← Nat.pow_add]
    exact lt_of_lt_of_le Nat.lt_log2_self (Nat.pow_le_pow_right (by decide) (by omega))
  obtain ⟨hle, hlt⟩ := isqrtFrom_spec (Nat.zero_le n) hhigh
  exact Nat.eq_sqrt.2 ⟨hle, hlt⟩

theorem truncated_sqrt (n : Nat) : Truncated √(n : ℝ) (isqrt n) (decide (isqrt n * isqrt n ≠ n)) := by
  rw [isqrt_eq_sqrt]
  refine ⟨Real.nat_sqrt_le_real_sqrt, Real.real_sqrt_lt_nat_sqrt_succ, ?_⟩
  rw [decide_eq_true_eq, not_iff_not, Real.sqrt_eq_iff_mul_self_eq (Nat.cast_nonneg _) (Nat.cast_nonneg _)]
  norm_cast
  exact eq_comm

section

variable {f : Flen} {n : Nat} {v : ℝ}

theorem magVal_one (f : Flen) : magVal f 1 = 2 ^ expMin f := by
  have h := magVal_of_scale f (E := 0) (sig := 1) (by have := Nat.two_pow_pos (fracBits f); omega) (.inl rfl)
  simpa using h

theorem magVal_one_le_one (f : Flen) : magVal f 1 ≤ 1 := by
  rw [magVal_one]
  exact zpow_le_one_of_nonpos₀ one_le_two (by cases f <;> decide)

theorem one_le_magVal_largest (f : Flen) : 1 ≤ magVal f (infPattern f - 1) := by
  have hscale : (1 : ℝ) ≤ 2 ^ (expMin f + lastScale f) := one_le_zpow₀ one_le_two (by cases f <;> decide)
  have hsig : (1 : ℝ) ≤ 2 ^ fracBits f := one_le_pow₀ one_le_two
  rw [magVal_largest]
  exact one_le_mul_of_one_le_of_one_le (by linarith) hscale

/-- The root of a positive finite number is neither too small nor too large for a finite number. -/
theorem NearestMag.sqrt_bounds {k : Nat} (hpos : 0 < k) (hfin : k < infPattern f)
    (h : NearestMag f √(magVal f k) n) : 0 < n ∧ n < infPattern f := by
  have hmono := (magVal_strictMono f).monotone
  have hlow : magVal f 1 ≤ magVal f k := hmono hpos
  have hhigh : magVal f k ≤ magVal f (infPattern f - 1) := hmono (by omega)
  have hone := magVal_one_le_one f
  have hlast := one_le_magVal_largest f
  have hnonneg := magVal_nonneg f 1
  have hsqrt : magVal f 1 ≤ √(magVal f k) := Real.le_sqrt_of_sq_le (by nlinarith)
  have hsqrt' : √(magVal f k) ≤ magVal f (infPattern f - 1) :=
    (Real.sqrt_le_left (by linarith)).2 (by nlinarith)
  have hn := (nearestMag_self f 1).mono h hsqrt
  have hn' := h.mono (nearestMag_self f _) hsqrt'
  omega

/-- The middle of a magnitude and another one against the root is its square against the radicand. -/
theorem isRoundedSqrt_of_nearest {x : ℚ} (hn : 0 < n) (hfin : n < infPattern f) (hx : 0 ≤ x)
    (h : NearestMag f √(x : ℝ) n) : IsRoundedSqrt f x (packT f false n) := by
  obtain ⟨z, hz, hzval⟩ := finiteValue_packT (neg := false) hfin
  rw [sgn_false, one_mul] at hzval
  have hzpos : (0 : ℝ) < z := by
    rw [hzval, ← magVal_zero f]
    exact magVal_strictMono f hn
  have hxr : (0 : ℝ) ≤ x := by exact_mod_cast hx
  refine ⟨fits_packT _ hfin.le, z, hz, by exact_mod_cast hzpos, fun u y _ hy hy0 => ?_⟩
  have hy0 : (0 : ℝ) ≤ y := by exact_mod_cast hy0
  have hyval : (y : ℝ) = magVal f (magBits f u) := by
    rw [← abs_of_nonneg hy0, cast_finiteValue hy, abs_mul, abs_sgn, one_mul, abs_of_nonneg (magVal_nonneg f _)]
  have hmid : (0 : ℝ) ≤ (z + y) / 2 := by positivity
  have hroot : (x = ((z + y) / 2) ^ 2) → √(x : ℝ) = (z + y) / 2 := fun heq => by
    rw [heq]
    push_cast
    exact Real.sqrt_sq hmid
  rw [packT_toNat_mod_two hfin.le]
  constructor
  · intro hlt
    have hlt : (z : ℝ) < y := by exact_mod_cast hlt
    rw [hzval, hyval] at hlt
    obtain ⟨hle, htie⟩ := h.le_middle_of_lt ((magVal_strictMono f).lt_iff_lt.1 hlt)
    rw [← hzval, ← hyval] at hle htie
    exact ⟨by exact_mod_cast (Real.sqrt_le_left hmid).1 hle, fun heq => htie (hroot heq)⟩
  · intro hlt
    have hlt : (y : ℝ) < z := by exact_mod_cast hlt
    rw [hzval, hyval] at hlt
    obtain ⟨hle, htie⟩ := h.middle_le_of_lt ((magVal_strictMono f).lt_iff_lt.1 hlt)
    rw [← hzval, ← hyval, add_comm] at hle htie
    exact ⟨by exact_mod_cast (Real.le_sqrt hmid hxr).1 hle, fun heq => htie (hroot heq)⟩

/-- With an even exponent the root is that of an integer at half the scale. -/
theorem sqrt_scaled (m k : Nat) {e h : Int} (heven : e = (k : Int) + 2 * h) :
    √((m : ℝ) * 2 ^ e) / 2 ^ h = √((m * 2 ^ k : Nat) : ℝ) := by
  have hscale : (m : ℝ) * 2 ^ e = (m * 2 ^ k : Nat) * ((2 : ℝ) ^ h) ^ 2 := by
    rw [heven, zpow_add₀ two_ne_zero, zpow_natCast, mul_comm (2 : Int), zpow_mul]
    push_cast
    rw [mul_assoc]
    rfl
  rw [hscale, Real.sqrt_mul (Nat.cast_nonneg _), Real.sqrt_sq (by positivity),
    mul_div_cancel_right₀ _ (zpow_ne_zero _ two_ne_zero)]

theorem fsqrt_isRounded {a : T} {m : Nat} {e : Int} (d : Nat) (ha : unpack f a = .fin false m e) (hm : m ≠ 0) :
    IsRoundedSqrt f (ratOf false m e) (fsqrt f d a) := by
  obtain ⟨hfin, hsign, hsig, -⟩ := finite_of_unpack ha
  have hpos : 0 < magBits f a := by
    rw [Nat.pos_iff_ne_zero, ne_eq, ← significand_eq_zero_iff (f := f), hsig]
    exact hm
  have hval : finiteValue f a = some (ratOf false m e) := by rw [finiteValue, ha]
  have hx : (ratOf false m e : ℝ) = magVal f (magBits f a) := by
    rw [cast_finiteValue hval, hsign, sgn_false, one_mul]
  have hme : (ratOf false m e : ℝ) = m * 2 ^ e := by rw [ratOf_eq_mul, sgn_false, one_mul]
  obtain ⟨k, hk⟩ : ∃ k, k = 2 * (fracBits f + 3) + (e % 2).toNat := ⟨_, rfl⟩
  have hbig : 2 ^ (fracBits f + 1) ≤ isqrt (m * 2 ^ k) := by
    rw [isqrt_eq_sqrt, Nat.le_sqrt, ← Nat.pow_add]
    calc 2 ^ (fracBits f + 1 + (fracBits f + 1)) ≤ 2 ^ k := Nat.pow_le_pow_right (by decide) (by omega)
      _ ≤ m * 2 ^ k := Nat.le_mul_of_pos_left _ (Nat.pos_of_ne_zero hm)
  have hne := ((Nat.two_pow_pos _).trans_le hbig).ne'
  have hcut : Truncated (√(ratOf false m e : ℝ) / 2 ^ ((e - (k : Int)) / 2)) (isqrt (m * 2 ^ k)) _ :=
    hme ▸ sqrt_scaled m k (by omega : e = (k : Int) + 2 * ((e - k) / 2)) ▸ truncated_sqrt _
  obtain ⟨n, hn, hnear⟩ := roundMag_nearest (f := f) hne hcut fun _ => hbig
  obtain ⟨hnpos, hnfin⟩ := (hx ▸ hnear).sqrt_bounds hpos hfin
  have hnonneg : (0 : ℝ) ≤ ratOf false m e := hx ▸ magVal_nonneg f _
  rw [fsqrt_pos d ha hm hk, hn, Nat.min_eq_left hnfin.le]
  exact isRoundedSqrt_of_nearest hnpos hnfin (by exact_mod_cast hnonneg) hnear

end

/-- Settles O46: each is `roundMag` of the exact result cut off far below its last bit. -/
theorem quotientAndRootRoundToNearestEven : Obligations.QuotientAndRootRoundToNearestEven := by
  intro f d a b x y _ _ hx hy
  obtain ⟨s, m, e, ha, rfl⟩ := unpack_of_finiteValue hx
  obtain ⟨t, n, e', hb, rfl⟩ := unpack_of_finiteValue hy
  constructor
  · intro hx0 hy0
    exact fdiv_isRounded d ha hb (fun h => hx0 (ratOf_eq_zero_iff.2 h)) (fun h => hy0 (ratOf_eq_zero_iff.2 h))
  · intro hpos
    have hm : m ≠ 0 := fun h => hpos.ne' (ratOf_eq_zero_iff.2 h)
    obtain rfl : s = false := by
      rw [← Bool.not_eq_true, ← ratOf_neg_iff hm]
      exact not_lt.2 hpos.le
    exact fsqrt_isRounded d ha hm

/-! ## Exact results -/

section

variable {f : Flen} {m m' : Nat} {e e' : Int}

theorem roundMag_nearest_exact (hm : m ≠ 0) :
    ∃ n, roundMag f m e false = min n (infPattern f) ∧ NearestMag f (m * 2 ^ e) n := by
  refine roundMag_nearest hm ?_ (by simp)
  rw [mul_div_cancel_right₀ _ (zpow_ne_zero e two_ne_zero)]
  exact truncated_self m

/-- A larger number has no smaller rounded magnitude. -/
theorem roundMag_mono (hm' : m' ≠ 0) (h : (m : ℝ) * 2 ^ e ≤ m' * 2 ^ e') :
    roundMag f m e false ≤ roundMag f m' e' false := by
  by_cases hm : m = 0
  · rw [hm, roundMag_zero]
    exact Nat.zero_le _
  · obtain ⟨n, hn, hnear⟩ := roundMag_nearest_exact (f := f) (e := e) hm
    obtain ⟨n', hn', hnear'⟩ := roundMag_nearest_exact (f := f) (e := e') hm'
    rw [hn, hn']
    exact min_le_min_right _ (hnear.mono hnear' h)

/-- A finite magnitude is rounded to itself. -/
theorem roundMag_eq_of_magVal {n : Nat} (hn : n < infPattern f) (h : (m : ℝ) * 2 ^ e = magVal f n) :
    roundMag f m e false = n := by
  by_cases hm : m = 0
  · have hzero : n = 0 := (magVal_strictMono f).injective (by rw [← h, hm, magVal_zero, Nat.cast_zero, zero_mul])
    rw [hm, hzero, roundMag_zero]
  · obtain ⟨n', hn', hnear⟩ := roundMag_nearest_exact (f := f) (e := e) hm
    rw [h] at hnear
    rw [hn', hnear.eq_of_magVal, Nat.min_eq_left hn.le]

/-- An integer of at most as many bits as a significand is a finite number. -/
theorem exists_magVal_eq {u : Nat} (hu : u < 2 ^ (fracBits f + 1)) : ∃ n < infPattern f, magVal f n = u := by
  have hfinite {n : Nat} (hn : magVal f n = u) : n < infPattern f := by
    have hscale : (1 : ℝ) ≤ 2 ^ (expMin f + lastScale f) := one_le_zpow₀ one_le_two (by cases f <;> decide)
    have hbound : (u : ℝ) < 2 * 2 ^ fracBits f := by rw [← pow_succ']; exact_mod_cast hu
    rw [← (magVal_strictMono f).lt_iff_lt, hn, magVal_infPattern]
    exact hbound.trans_le (le_mul_of_one_le_right (by positivity) hscale)
  by_cases hzero : u = 0
  · exact ⟨0, infPattern_pos f, by simp [hzero]⟩
  · have hlog : Nat.log2 u ≤ fracBits f := Nat.lt_succ_iff.1 ((Nat.log2_lt hzero).2 hu)
    obtain ⟨j, hj⟩ := Nat.exists_eq_add_of_le hlog
    obtain ⟨E, hE⟩ : ∃ E : Nat, expMin f + E = -(j : Int) := by
      have : expMin f + fracBits f ≤ 0 := by cases f <;> decide
      exact ⟨(-expMin f - j).toNat, by omega⟩
    have hval : magVal f (E * 2 ^ fracBits f + u * 2 ^ j) = u := by
      have hlow : 2 ^ fracBits f ≤ u * 2 ^ j := by
        rw [hj, Nat.pow_add]
        exact Nat.mul_le_mul_right _ (Nat.log2_self_le hzero)
      have hhigh : u * 2 ^ j ≤ 2 * 2 ^ fracBits f := by
        rw [hj, Nat.pow_add, ← Nat.mul_assoc, ← Nat.pow_succ']
        exact Nat.mul_le_mul_right _ Nat.lt_log2_self.le
      rw [magVal_of_scale f hhigh (.inr hlow), hE, zpow_neg, zpow_natCast]
      push_cast
      field_simp
    exact ⟨_, hfinite hval, hval⟩

theorem cvt_eq_packT {u n : Nat} (hn : n < infPattern f) (hval : magVal f n = u) : cvt f u = packT f false n := by
  rw [cvt, roundMag_eq_of_magVal hn (by rw [hval, zpow_zero, mul_one])]

end

/-- Settles O49: an integer below `2^24` is a finite number of both formats, so the rounding keeps it. -/
theorem conversionIsExact : Obligations.ConversionIsExact := by
  intro f u hu
  have hbits : 2 ^ 24 ≤ 2 ^ (fracBits f + 1) := Nat.pow_le_pow_right (by decide) (by cases f <;> decide)
  obtain ⟨n, hn, hval⟩ := exists_magVal_eq (f := f) (hu.trans_le hbits)
  obtain ⟨z, hz, hzval⟩ := finiteValue_packT (neg := false) hn
  rw [cvt_eq_packT hn hval]
  refine ⟨fits_packT false hn.le, ?_⟩
  rw [sgn_false, one_mul, hval] at hzval
  rw [hz, Option.some.injEq]
  exact_mod_cast hzval

end Sys2Proof.Machine
end

section
/-! The named properties of the reference numerics (R124), for the model's enclosures (log 6): what is rounded lies in
[0, 1], is exact at the axes, and is not zero where the sine or cosine is not. -/

namespace Sys2Proof.Machine

/-! ## Bounds on rounded magnitudes -/

section

variable {f : Flen} {m p : Nat}

theorem cvt_one_toNat (f : Flen) : (cvt f 1).toNat = roundMag f 1 0 false := by
  rw [cvt, packT_toNat (roundMag_le f 1 0 false), cond_false, Nat.zero_add]

theorem unitBounded_packT {neg : Bool} (h : m ≤ roundMag f 1 0 false) : unitBounded f (packT f neg m) = true := by
  have hmag := magBits_packT (f := f) (neg := neg) (h.trans (roundMag_le f 1 0 false))
  rw [unitBounded, decide_eq_true_eq, ← magBits, hmag, cvt_one_toNat]
  exact h

/-- A number of [0, 1] in fixed point is rounded to at most 1. -/
theorem roundMag_le_one (h : m ≤ 2 ^ p) : roundMag f m (-(p : Int)) false ≤ roundMag f 1 0 false := by
  refine roundMag_mono one_ne_zero ?_
  rw [zpow_neg, zpow_natCast, zpow_zero, mul_one, Nat.cast_one, ← div_eq_mul_inv, div_le_one (by positivity)]
  exact_mod_cast h

/-- What is not below the smallest subnormal is not rounded to zero. -/
theorem roundMag_ne_zero {e : Int} (hm : m ≠ 0) (h : (2 : ℝ) ^ expMin f ≤ m * 2 ^ e) : roundMag f m e false ≠ 0 := by
  have hone : roundMag f 1 (expMin f) false = 1 :=
    roundMag_eq_of_magVal (by cases f <;> decide) (by rw [magVal_one, Nat.cast_one, one_mul])
  have hmono := roundMag_mono (f := f) (m := 1) (e := expMin f) hm (by rwa [Nat.cast_one, one_mul])
  omega

theorem one_rounded_ne_zero (f : Flen) : roundMag f 1 0 false ≠ 0 := by
  refine roundMag_ne_zero one_ne_zero ?_
  rw [Nat.cast_one, one_mul, zpow_zero]
  exact zpow_le_one_of_nonpos₀ one_le_two (by cases f <;> decide)

/-- A number of fixed point that is not below `2^-30` is not rounded to zero. -/
theorem roundMag_ne_zero_of_large (h : 2 ^ p ≤ m * 2 ^ 30) : roundMag f m (-(p : Int)) false ≠ 0 := by
  have hpos := Nat.two_pow_pos p
  refine roundMag_ne_zero (by omega) ?_
  have hlow : (2 : ℝ) ^ expMin f ≤ 2 ^ (-(30 : Nat) : Int) := zpow_le_zpow_right₀ one_le_two (by cases f <;> decide)
  have hcast : (2 : ℝ) ^ p ≤ m * 2 ^ 30 := by exact_mod_cast h
  refine hlow.trans ?_
  rw [zpow_neg, zpow_neg, zpow_natCast, zpow_natCast, ← div_eq_mul_inv, le_div_iff₀ (by positivity),
    inv_mul_le_iff₀ (by positivity), mul_comm]
  exact hcast

end

/-! ## Enclosures -/

/-- An enclosure of numbers of [0, 1]. -/
structure Enclosure.Unit (x : Enclosure) : Prop where
  ordered : x.lo ≤ x.hi
  le_one : x.hi ≤ 2 ^ x.prec

theorem around_unit (v p : Nat) : (around v p).Unit :=
  ⟨min_le_min_right _ (by omega), Nat.min_le_right _ _⟩

theorem sinOctant_unit (base num den : Nat) : (sinOctant base num den).Unit := around_unit _ _

theorem cosOctant_unit (base num den : Nat) : (cosOctant base num den).Unit := around_unit _ _

theorem square_unit {x : Enclosure} (h : x.Unit) : x.square.Unit := by
  refine ⟨Nat.mul_le_mul h.ordered h.ordered, ?_⟩
  show x.hi * x.hi ≤ 2 ^ (2 * x.prec)
  rw [Nat.two_mul, Nat.pow_add]
  exact Nat.mul_le_mul h.le_one h.le_one

section

variable {f : Flen} {enc : Nat → Enclosure} {bs : List Nat}

/-- What the ladder of precisions gives is one end of an enclosure, rounded. -/
theorem rnEnclosed_cases (f : Flen) (enc : Nat → Enclosure) (hbs : bs ≠ []) : ∃ b ∈ bs, ∃ m,
    (m = (enc b).lo ∨ m = (enc b).hi) ∧ rnEnclosed f enc bs = roundMag f m (-((enc b).prec : Int)) false := by
  induction bs with
  | nil => exact absurd rfl hbs
  | cons b bs ih =>
    have hb : b ∈ b :: bs := List.mem_cons_self
    simp only [rnEnclosed]
    split_ifs with hagree hlast hdown
    · exact ⟨b, hb, _, .inl rfl, rfl⟩
    · exact ⟨b, hb, _, .inl rfl, rfl⟩
    · exact ⟨b, hb, _, .inr rfl, rfl⟩
    · obtain ⟨c, hc, h⟩ := ih hlast
      exact ⟨c, List.mem_cons_of_mem b hc, h⟩

theorem rnEnclosed_le_one (hbs : bs ≠ []) (h : ∀ b, (enc b).Unit) : rnEnclosed f enc bs ≤ roundMag f 1 0 false := by
  obtain ⟨b, -, m, hm, hval⟩ := rnEnclosed_cases f enc hbs
  obtain ⟨hordered, hone⟩ := h b
  rw [hval]
  exact roundMag_le_one (by omega)

theorem rnEnclosed_ne_zero (hbs : bs ≠ []) (h : ∀ b, (enc b).Unit)
    (hlarge : ∀ b ∈ bs, 2 ^ (enc b).prec ≤ (enc b).lo * 2 ^ 30) : rnEnclosed f enc bs ≠ 0 := by
  obtain ⟨b, hb, m, hm, hval⟩ := rnEnclosed_cases f enc hbs
  have hordered := (h b).ordered
  have hlow := hlarge b hb
  have hm : (enc b).lo ≤ m := by omega
  rw [hval]
  exact roundMag_ne_zero_of_large (hlow.trans (Nat.mul_le_mul_right _ hm))

theorem precisions_ne_nil : precisions ≠ [] := nofun

theorem sinMag_le_one (f : Flen) (num den : Nat) : sinMag f num den ≤ roundMag f 1 0 false := by
  unfold sinMag
  split_ifs
  · exact Nat.zero_le _
  · exact rnEnclosed_le_one precisions_ne_nil fun b => sinOctant_unit b num den

theorem cosMag_le_one (f : Flen) (num den : Nat) : cosMag f num den ≤ roundMag f 1 0 false := by
  unfold cosMag
  split_ifs
  · exact le_rfl
  · exact rnEnclosed_le_one precisions_ne_nil fun b => cosOctant_unit b num den

end

/-! ## How large a sine and a cosine of the first octant are -/

theorem arctanSeries_bounds (x fuel k pw : Nat) :
    pw / k - pw / (x * x) / (k + 2) ≤ arctanSeries x (fuel + 1) k pw ∧ arctanSeries x (fuel + 1) k pw ≤ pw / k := by
  have hle : ∀ fuel k pw, arctanSeries x fuel k pw ≤ pw / k := by
    intro fuel k pw
    cases fuel with
    | zero => exact Nat.zero_le _
    | succ fuel => exact Nat.sub_le _ _
  exact ⟨Nat.sub_le_sub_left (hle fuel (k + 2) (pw / (x * x))) _, hle _ _ _⟩

/-- `2 ≤ π ≤ 4` is all that is needed of it here. -/
theorem piFixed_bounds (b : Nat) : 2 * 2 ^ b ≤ piFixed b ∧ piFixed b ≤ 4 * 2 ^ b := by
  have hone : 2 ^ (b + 32) = 2 ^ b * 2 ^ 32 := Nat.pow_add 2 b 32
  have hpos := Nat.two_pow_pos b
  obtain ⟨hlow, hhigh⟩ := arctanSeries_bounds 5 ((b + 32) / 4 + 1) 1 (2 ^ (b + 32) / 5)
  obtain ⟨-, hhigh'⟩ := arctanSeries_bounds 239 ((b + 32) / 4 + 1) 1 (2 ^ (b + 32) / 239)
  unfold piFixed
  simp only
  generalize arctanSeries 5 _ 1 _ = A at *
  generalize arctanSeries 239 _ 1 _ = B at *
  generalize 2 ^ b = c at *
  omega

theorem alternating_le (p x2 fuel k t : Nat) : alternating p x2 fuel k t ≤ t := by
  cases fuel with
  | zero => exact Nat.zero_le _
  | succ fuel =>
    rw [alternating]
    split_ifs with ht
    · exact Nat.zero_le _
    · exact Nat.sub_le _ _

/-- The sum is at least its first term less its second; an `x²` of at most 1 makes that half the first term or more. -/
theorem half_le_alternating {p x2 fuel k t : Nat} (hk : 1 ≤ k) (hx2 : x2 ≤ 2 ^ p) :
    t / 2 ≤ alternating p x2 (fuel + 1) k t := by
  have hterm : t * x2 / 2 ^ p ≤ t :=
    Nat.div_le_of_le_mul (Nat.mul_comm (2 ^ p) t ▸ Nat.mul_le_mul_left t hx2)
  have hfactor : 2 ≤ k * (k + 1) := Nat.mul_le_mul hk (by omega : 2 ≤ k + 1)
  have hhalf : t * x2 / 2 ^ p / (k * (k + 1)) ≤ t / 2 := Nat.div_le_div hterm hfactor two_ne_zero
  have hrest := alternating_le p x2 fuel (k + 2) (t * x2 / 2 ^ p / (k * (k + 1)))
  rw [alternating]
  split_ifs with ht
  · omega
  · omega

section

variable {base p num den : Nat}

/-- An angle of the first octant is at most 1. -/
theorem angleFixed_le (hle : num ≤ den) : angleFixed base p num den ≤ 2 ^ p := by
  obtain ⟨-, hpi⟩ := piFixed_bounds (base + 8)
  have hscale : 4 * 2 ^ (base + 8) = 2 ^ (base + 10) := by rw [Nat.pow_add, Nat.pow_add]; omega
  rw [hscale] at hpi
  exact Nat.div_le_of_le_mul (Nat.mul_le_mul_right _ (Nat.mul_le_mul hle hpi))

/-- The precision of `sinOctant` gives a small angle as many bits as a large one. -/
theorem angleFixed_ge {c : Nat} (hnum : num ≠ 0) (hle : num ≤ den)
    (hp : p = c + 1 + (Nat.log2 den - Nat.log2 num) + 1) : 2 ^ c ≤ angleFixed base p num den := by
  obtain ⟨hpi, -⟩ := piFixed_bounds (base + 8)
  have hden : den < 2 ^ (Nat.log2 den + 1) := Nat.lt_log2_self
  have hlog : 2 ^ Nat.log2 num ≤ num := Nat.log2_self_le hnum
  have hlogs : Nat.log2 num ≤ Nat.log2 den := (Nat.le_log2 (by omega)).2 (hlog.trans hle)
  have hpos : 0 < den * 2 ^ (base + 10) := Nat.mul_pos (by omega) (Nat.two_pow_pos _)
  rw [angleFixed, Nat.le_div_iff_mul_le hpos]
  calc 2 ^ c * (den * 2 ^ (base + 10)) ≤ 2 ^ c * (2 ^ (Nat.log2 den + 1) * 2 ^ (base + 10)) :=
        Nat.mul_le_mul_left _ (Nat.mul_le_mul_right _ hden.le)
    _ = 2 ^ Nat.log2 num * (2 * 2 ^ (base + 8)) * 2 ^ p := by
        rw [← Nat.pow_add, ← Nat.pow_add, ← Nat.pow_succ', ← Nat.pow_add, ← Nat.pow_add]
        congr 1
        omega
    _ ≤ num * piFixed (base + 8) * 2 ^ p := Nat.mul_le_mul_right _ (Nat.mul_le_mul hlog hpi)

theorem square_angle_le {x : Nat} (hx : x ≤ 2 ^ p) : x * x / 2 ^ p ≤ 2 ^ p :=
  Nat.div_le_of_le_mul (Nat.mul_le_mul hx hx)

/-- The error bound of an enclosure is small against a value of `2^17 * 2^c` units or more. -/
theorem around_large {v p c : Nat} (hv : 2 ^ 17 * 2 ^ c ≤ v) (hp : 2 ^ p ≤ 2 ^ 46 * 2 ^ c) :
    2 ^ (around v p).prec ≤ (around v p).lo * 2 ^ 30 := by
  have hpos := Nat.two_pow_pos c
  show 2 ^ p ≤ min (v - 2 ^ 16) (2 ^ p) * 2 ^ 30
  omega

theorem sinOctant_large (hnum : num ≠ 0) (hle : num ≤ den) (hden : den ≤ 2 ^ 23) (hbase : 20 ≤ base) :
    2 ^ (sinOctant base num den).prec ≤ (sinOctant base num den).lo * 2 ^ 30 := by
  obtain ⟨c, rfl⟩ := Nat.exists_eq_add_of_le' hbase
  have hlog : Nat.log2 den ≤ 23 :=
    Nat.lt_succ_iff.1 ((Nat.log2_lt (by omega)).2 (hden.trans_lt (by decide)))
  have hangle := angleFixed_le (base := c + 20) (p := c + 20 + (Nat.log2 den - Nat.log2 num) + 1) hle
  have hlarge : 2 ^ (c + 19) ≤ _ :=
    angleFixed_ge (base := c + 20) (p := c + 20 + (Nat.log2 den - Nat.log2 num) + 1) hnum hle rfl
  have hsum := half_le_alternating (fuel := (c + 20) / 2 + 3) (t := angleFixed (c + 20)
    (c + 20 + (Nat.log2 den - Nat.log2 num) + 1) num den) one_le_two (square_angle_le hangle)
  have hscale : 2 ^ (c + 19) = 2 ^ 19 * 2 ^ c := by rw [Nat.pow_add, Nat.mul_comm]
  refine around_large (c := c) ?_ ?_
  · refine le_trans ?_ hsum
    omega
  · rw [← Nat.pow_add]
    exact Nat.pow_le_pow_right (by decide) (by omega)

theorem cosOctant_large (hle : num ≤ den) (hbase : 20 ≤ base) :
    2 ^ (cosOctant base num den).prec ≤ (cosOctant base num den).lo * 2 ^ 30 := by
  obtain ⟨c, rfl⟩ := Nat.exists_eq_add_of_le' hbase
  have hangle := angleFixed_le (base := c + 20) (p := c + 20) hle
  have hsum := half_le_alternating (fuel := (c + 20) / 2 + 3) (t := 2 ^ (c + 20)) le_rfl (square_angle_le hangle)
  have hscale : 2 ^ (c + 20) = 2 ^ 20 * 2 ^ c := by rw [Nat.pow_add, Nat.mul_comm]
  refine around_large (c := c) ?_ ?_
  · refine le_trans ?_ hsum
    omega
  · omega

end

theorem le_of_mem_precisions {b : Nat} (hb : b ∈ precisions) : 20 ≤ b := by
  simp only [precisions, List.mem_cons, List.not_mem_nil, or_false] at hb
  omega

section

variable {num den : Nat} (f : Flen)

theorem sinMag_ne_zero (hnum : num ≠ 0) (hle : num ≤ den) (hden : den ≤ 2 ^ 23) : sinMag f num den ≠ 0 := by
  rw [sinMag, if_neg hnum]
  exact rnEnclosed_ne_zero precisions_ne_nil (fun b => sinOctant_unit b num den)
    fun b hb => sinOctant_large hnum hle hden (le_of_mem_precisions hb)

theorem cosMag_ne_zero (hle : num ≤ den) : cosMag f num den ≠ 0 := by
  unfold cosMag
  split_ifs
  · exact one_rounded_ne_zero f
  · exact rnEnclosed_ne_zero precisions_ne_nil (fun b => cosOctant_unit b num den)
      fun b hb => cosOctant_large hle (le_of_mem_precisions hb)

end

/-! ## Rotations -/

theorem octantOf_zero (q : Nat) : octantOf 0 q = { idx := 0, num := 0, den := q } := by
  simp [octantOf]

/-- A quarter turn. -/
theorem octantOf_quarter {n : Nat} (hn : 1 ≤ n) : octantOf n (4 * n) = { idx := 2, num := 0, den := 4 * n } := by
  have hmod : n % (4 * n) = n := Nat.mod_eq_of_lt (by omega)
  have hdiv : 8 * n / (4 * n) = 2 := by
    rw [show 8 * n = 2 * (4 * n) by omega, Nat.mul_div_cancel _ (by omega)]
  have hrem : 8 * n - 2 * (4 * n) = 0 := by omega
  simp [octantOf, hmod, hdiv, hrem]

/-- Angles strictly between 0 and a half turn: the sine is positive, and beside the real axis the distance to it is not
zero. -/
theorem octantOf_lower {k n : Nat} (hk : 0 < k) (hkn : 2 * k < n) :
    (octantOf k n).sinNeg = false ∧ ((octantOf k n).swapped = false → (octantOf k n).num ≠ 0) ∧
      (octantOf k n).num ≤ n ∧ (octantOf k n).den = n := by
  have hmod : k % n = k := Nat.mod_eq_of_lt (by omega)
  have hdiv := Nat.div_add_mod' (8 * k) n
  have hrem := Nat.mod_lt (8 * k) (by omega : 0 < n)
  have hidx : 8 * k / n < 4 := Nat.div_lt_of_lt_mul (by omega)
  simp only [octantOf, Octant.sinNeg, Octant.swapped, hmod, decide_eq_false_iff_not]
  generalize 8 * k / n = o at *
  interval_cases o <;> simp <;> omega

section

variable (f : Flen)

theorem rotation_unitBounded (p q : Nat) :
    unitBounded f (rotation f p q).re = true ∧ unitBounded f (rotation f p q).im = true := by
  simp only [rotation]
  split_ifs
  · exact ⟨unitBounded_packT (sinMag_le_one f _ _), unitBounded_packT (cosMag_le_one f _ _)⟩
  · exact ⟨unitBounded_packT (cosMag_le_one f _ _), unitBounded_packT (sinMag_le_one f _ _)⟩

/-- `tw_zero`, `rot_zero`. -/
theorem rotation_zero (q : Nat) : rotation f 0 q = { re := cvt f 1, im := 0 } := by
  simp [rotation, octantOf_zero, Octant.swapped, Octant.cosNeg, signedT, sinMag, cosMag, cvt, ← zeroT_false f, zeroT]

/-- `tw_quarter`. -/
theorem rotation_quarter {n : Nat} (hn : 1 ≤ n) :
    rotation f n (4 * n) = { re := 0, im := packT f true (cvt f 1).toNat } := by
  rw [cvt_one_toNat]
  simp [rotation, octantOf_quarter hn, Octant.swapped, Octant.sinNeg, signedT, sinMag, cosMag, ← zeroT_false f, zeroT]

/-- `tw_sign`. -/
theorem rotation_im_lower {k n : Nat} (hk : 0 < k) (hkn : 2 * k < n) :
    ∃ mag, mag ≤ infPattern f ∧ (rotation f k n).im = packT f true mag ∧ (n ≤ 2 ^ 23 → mag ≠ 0) := by
  obtain ⟨hsin, hnum, hle, hden⟩ := octantOf_lower hk hkn
  simp only [rotation, hsin, hden]
  split_ifs with hswap
  · exact ⟨_, cosMag_le f _ _, rfl, fun _ => cosMag_ne_zero f hle⟩
  · have hne := hnum (by simpa using hswap)
    have hexact : ((octantOf k n).num == 0) = false := beq_false_of_ne hne
    exact ⟨_, sinMag_le f _ _, by rw [hexact]; rfl, fun hn => sinMag_ne_zero f hne hle hn⟩

/-! ## Windows and the rotation of a candidate -/

theorem refHann_zero (n : Nat) : refHann f n 0 = 0 := by
  simp [refHann, octantOf_zero, Octant.swapped, ← zeroT_false f, zeroT]

theorem refHann_middle {n : Nat} (hn : 1 ≤ n) : refHann f (2 * n) n = cvt f 1 := by
  rw [refHann, ← Nat.mul_assoc, octantOf_quarter hn]
  simp [Octant.swapped, cvt]

theorem refHann_eq_packT (n m : Nat) : ∃ mag, mag ≤ roundMag f 1 0 false ∧ refHann f n m = packT f false mag := by
  refine ⟨_, ?_, rfl⟩
  split_ifs
  · exact le_rfl
  · exact rnEnclosed_le_one precisions_ne_nil fun b => square_unit (cosOctant_unit b _ _)
  · exact Nat.zero_le _
  · exact rnEnclosed_le_one precisions_ne_nil fun b => square_unit (sinOctant_unit b _ _)

theorem refHann_range (n m : Nat) :
    unitBounded f (refHann f n m) = true ∧ (refHann f n m).toNat < 2 ^ (flenBits f - 1) := by
  obtain ⟨mag, hmag, heq⟩ := refHann_eq_packT f n m
  have hinf := hmag.trans (roundMag_le f 1 0 false)
  rw [heq]
  exact ⟨unitBounded_packT hmag, toNat_lt_of_signBit (fits_packT false hinf) (signBit_packT hinf)⟩

/-- Inside the domain of R125 `ROT` is a rotation by the exact angle. -/
theorem refRot_eq {b fs : T} {z : Bool} {m m' : Nat} {e e' : Int} (k : Nat) (hb : unpack f b = .fin z m e)
    (hz : z = true → m = 0) (hfs : unpack f fs = .fin false m' e') (hm' : m' ≠ 0) :
    refRot f b k fs = rotation f (m * k * 2 ^ (e - e').toNat) (m' * 2 ^ (e' - e).toNat) := by
  have hdomain : ¬ ((z = true ∧ m ≠ 0) ∨ m' = 0) := by
    rintro (⟨hneg, hm⟩ | h)
    · exact hm (hz hneg)
    · exact hm' h
  rw [refRot, hb, hfs]
  exact if_neg hdomain

end

/-- Settles O51: each property is one of rotations or of the window. -/
theorem referenceNumericsHaveTheNamedProperties : Obligations.ReferenceNumericsHaveTheNamedProperties := by
  intro f n k b fs hn
  refine ⟨rotation_zero f n, rotation_quarter f hn, rotation_unitBounded f k n, fun hk hkn => ?_, refHann_zero f n,
    refHann_middle f hn, refHann_range f n k, fun z m e m' e' hb hz hfs hm' => ?_⟩
  · obtain ⟨mag, hmag, him, hne⟩ := rotation_im_lower f hk hkn
    rw [refTwid, him, ← signBit_eq_getLsbD, ← magBits, signBit_packT hmag, magBits_packT hmag]
    exact ⟨rfl, hne⟩
  · rw [refRot_eq f 0 hb hz hfs hm', refRot_eq f k hb hz hfs hm', Nat.mul_zero, Nat.zero_mul]
    exact ⟨rotation_zero f _, rotation_unitBounded f _ _⟩

end Sys2Proof.Machine
end

section
/-! The acceptance checks of every command (R265): what an idle engine answers to each. -/

namespace Sys2Proof.Machine

/-! ## The word of a command with an argument (R92, R96) -/

/-- The word of a well-formed command is that of its opcode with argument 0, and the argument added to it. -/
theorem encode_eq_add {i : Instr} {c : CmdWord} (hc : c.toNat = i.op.toNat * 2 ^ 24) (hwf : i.wf = true) :
    encode i = c + BitVec.ofNat 32 i.arg := by
  have hop : i.op.toNat < 2 ^ 8 := i.op.isLt
  have harg := wf_iff_arg_lt.1 hwf
  have hsum : (c + BitVec.ofNat 32 i.arg).toNat = i.op.toNat * 2 ^ 24 + i.arg := by
    rw [BitVec.toNat_add, BitVec.toNat_ofNat, Nat.add_mod_mod, hc, Nat.mod_eq_of_lt (by omega)]
  exact encode_eq_of_decode (decode_eq_ok_iff.2 (by rw [hsum]; omega))

section

variable {n : Nat}

theorem encode_teInit (hwf : (Instr.teInit n).wf = true) : encode (.teInit n) = 0x01000000 + BitVec.ofNat 32 n :=
  encode_eq_add (by simp [Instr.op]) hwf

theorem encode_teStage (hwf : (Instr.teStage n).wf = true) : encode (.teStage n) = 0x03000000 + BitVec.ofNat 32 n :=
  encode_eq_add (by simp [Instr.op]) hwf

theorem encode_tdInit (hwf : (Instr.tdInit n).wf = true) : encode (.tdInit n) = 0x11000000 + BitVec.ofNat 32 n :=
  encode_eq_add (by simp [Instr.op]) hwf

end

/-! ## The issue to an idle engine (R233) -/

section

variable {i : Instr} {s : State}

theorem exec_of_issue {t : State} (hi : i ≠ .reset) (h : issue i (acceptCheck i s) s = t) : exec i s = .next t := by
  rw [exec_eq_issue hi, h]

/-- The first check of the list decides, or the ones behind it do. -/
theorem issue_check {p : Prop} [Decidable p] {e : ErrCode} {c : Option ErrCode} (hidle : s.busy = false) :
    issue i (if p then some e else c) s = if p then raise e (encode i) s else issue i c s := by
  split_ifs
  · exact issue_refused hidle
  · rfl

/-- With no check left the command is accepted, and the fields of R25 are those of its opcode. -/
theorem issue_passed (hidle : s.busy = false) (hwf : i.wf = true) :
    issue i none s = busyWith (encode i) i.op (isTdOpcode i.op) s := by
  obtain ⟨hop, -⟩ := Laws.EncodeFields.fields i.op i.arg (wf_iff_arg_lt.1 hwf)
  have hop : opField (encode i) = i.op := hop
  rw [issue_accepted hidle, accept, hop, busyWith]

end

/-! ## The checks -/

section

variable {s : State} {n : Nat}

theorem teInitCheck_none_or_cfg (n : Nat) (s : State) : teInitCheck n s = none ∨ teInitCheck n s = some .cfg := by
  unfold teInitCheck
  split_ifs
  · exact .inr rfl
  · exact .inl rfl

/-- The converse of `teInitCheck_none`. -/
theorem teInitCheck_two_pow {l : Nat} (hl : 1 ≤ l) (hmax : l ≤ s.build.log2nMax) : teInitCheck (2 ^ l) s = none := by
  have hpow : isPow2 (2 ^ l) = true := isPow2_iff.2 ⟨l, hl, rfl⟩
  have hsize : ¬ 2 ^ s.build.log2nMax < 2 ^ l := Nat.not_lt.2 (Nat.pow_le_pow_right Nat.two_pos hmax)
  simp [teInitCheck, hpow, hsize]

theorem teInitCheck_cfg (h : n < 2 ∨ (∀ k, n ≠ 2 ^ k) ∨ 2 ^ s.build.log2nMax < n) : teInitCheck n s = some .cfg := by
  refine (teInitCheck_none_or_cfg n s).resolve_left fun hnone => ?_
  obtain ⟨l, hl, rfl, hmax⟩ := teInitCheck_none hnone
  rcases h with hsmall | hpow | hlarge
  · exact Nat.not_le.2 hsmall (Nat.le_self_pow (by omega) 2)
  · exact hpow l rfl
  · exact Nat.not_le.2 hlarge (Nat.pow_le_pow_right Nat.two_pos hmax)

theorem sweepArgsBad_iff : sweepArgsBad s = true ↔ s.tdLo = 0 ∨ finitePositive s.build.flen s.tdFs = false := by
  simp [sweepArgsBad]

theorem ite_sweepArgsBad {α : Type} (a b : α) : (if sweepArgsBad s = true then a else b) =
    if s.tdLo = 0 ∨ finitePositive s.build.flen s.tdFs = false then a else b :=
  if_congr sweepArgsBad_iff rfl rfl

end

/-- R198: a finite value above zero has a clear sign bit and magnitude bits strictly between those of zero and those of
the infinities. -/
theorem finitePositive_iff {f : Flen} {w : T} : finitePositive f w = true ↔
    signBit f w = false ∧ 0 < magBits f w ∧ magBits f w < infPattern f := by
  rw [finitePositive, unpack_eq]
  split_ifs with hfin hinf
  · cases signBit f w <;> simp [hfin, significand_eq_zero_iff, Nat.pos_iff_ne_zero]
  · simp [hfin]
  · simp [hfin]

/-- For data of `FLEN` bits these are the patterns between that of `+0` and that of the positive infinity. -/
theorem finitePositive_iff_toNat {f : Flen} {w : T} (h : fits f w = true) :
    finitePositive f w = true ↔ 0 < w.toNat ∧ w.toNat < infPattern f := by
  have hlt := fits_iff.1 h
  have hinf := infPattern_lt f
  rw [finitePositive_iff, signBit, magBits, decide_eq_false_iff_not]
  cases f <;> simp only [flenBits] at hlt hinf ⊢ <;> omega

/-- Settles O9: each command's checks as the model lists them (`issue_check`), then acceptance (`issue_passed`). -/
theorem acceptanceChecksInOrder : Obligations.AcceptanceChecksInOrder := by
  refine ⟨fun x hx => finitePositive_iff_toNat (f := .w32) (fits_iff.2 hx),
    fun x => finitePositive_iff_toNat (f := .w64) (fits_iff.2 x.isLt), fun s hidle =>
    ⟨fun n hn hbad => exec_of_issue nofun ?teInitRefused, fun k hk hk24 hmax => exec_of_issue nofun ?teInitAccepted,
      exec_of_issue nofun ?teWinld, fun k hk => exec_of_issue nofun ?teStage, exec_of_issue nofun ?teMag,
      exec_of_issue nofun ?teXform, fun n hn => exec_of_issue nofun ?tdInit, exec_of_issue nofun ?tdOnset,
      exec_of_issue nofun ?tdSweep, exec_of_issue nofun ?tdDetect, exec_of_issue nofun ?nop, rfl⟩⟩
  case teInitRefused =>
    rw [acceptCheck, teInitCheck_cfg hbad, issue_refused hidle, encode_teInit (decide_eq_true hn)]
  case teInitAccepted =>
    have hwf : (Instr.teInit (2 ^ k)).wf = true := decide_eq_true (Nat.pow_lt_pow_right (by decide) hk24)
    rw [acceptCheck, teInitCheck_two_pow hk hmax, issue_passed hidle hwf, encode_teInit hwf]
    rfl
  case teWinld =>
    rw [acceptCheck, teWinldCheck, issue_check hidle, issue_check hidle, issue_passed hidle rfl]
    rfl
  case teStage =>
    have hwf : (Instr.teStage k).wf = true := decide_eq_true hk
    rw [acceptCheck, teStageCheck, issue_check hidle, issue_check hidle, issue_passed hidle hwf, encode_teStage hwf]
    rfl
  case teMag =>
    rw [acceptCheck, teMagCheck, issue_check hidle, issue_passed hidle rfl]
    rfl
  case teXform =>
    rw [acceptCheck, teXformCheck, issue_check hidle, issue_check hidle, issue_passed hidle rfl]
    rfl
  case tdInit =>
    have hwf : (Instr.tdInit n).wf = true := decide_eq_true hn
    rw [acceptCheck, tdInitCheck, issue_check hidle, issue_passed hidle hwf, encode_tdInit hwf]
    rfl
  case tdOnset =>
    rw [acceptCheck, tdOnsetCheck, issue_check hidle, issue_check hidle, issue_passed hidle rfl]
    rfl
  case tdSweep =>
    rw [acceptCheck, tdSweepCheck, issue_check hidle, ite_sweepArgsBad, issue_check hidle, issue_passed hidle rfl]
    rfl
  case tdDetect =>
    rw [acceptCheck, tdDetectCheck, issue_check hidle, issue_check hidle, ite_sweepArgsBad, issue_check hidle,
      issue_passed hidle rfl]
    rfl
  case nop =>
    rw [acceptCheck, issue_passed hidle rfl]
    rfl

end Sys2Proof.Machine
end

section
/-! The construction commands (41_table_build.md): their lists, and the tables the lists leave (R142 to R146, R151 to
R153). -/

namespace Sys2Proof.Machine

/-! ## The lists (R142, R151) -/

/-- The list of `TE.INIT n`, R142. -/
def teInitList (n : Nat) : List MicroOp :=
  (List.range (n / 2)).map .twgen ++ (List.range n).map .brgen ++ (List.range (n / 2 + 1)).map .wingen

/-- The list of `TD.INIT n`, R151. -/
def tdInitList (n : Nat) : List MicroOp := (List.range (n / 2 + 1)).map .dwgen

theorem teInitList_length {n : Nat} (heven : 2 ∣ n) : (teInitList n).length = 2 * n + 1 := by
  simp only [teInitList, List.length_append, List.length_map, List.length_range]
  omega

theorem tdInitList_length (n : Nat) : (tdInitList n).length = n / 2 + 1 := by simp [tdInitList]

/-- The three tables one after the other fill the list. -/
theorem teInit_list {n : Nat} (heven : 2 ∣ n) (s : State) :
    (List.range (listLen (.teInit n) s)).map (uopAt (.teInit n) s) = (teInitList n).map some := by
  have hlen : listLen (.teInit n) s = n / 2 + n + (n / 2 + 1) := by
    simp only [listLen, teInitLen]
    omega
  rw [hlen, List.range_add, List.range_add]
  simp only [List.map_append, List.map_map, teInitList]
  congr 1
  · congr 1
    all_goals
      refine List.map_congr_left fun p hp => ?_
      simp [uopAt, teInitUop, List.mem_range.1 hp]
  · refine List.map_congr_left fun p _ => ?_
    have hlate : ¬ n / 2 + n + p < n / 2 := by omega
    simp [uopAt, teInitUop, hlate]

theorem tdInit_list (n : Nat) (s : State) :
    (List.range (listLen (.tdInit n) s)).map (uopAt (.tdInit n) s) = (tdInitList n).map some := by
  simp [tdInitList, listLen, tdInitLen, uopAt, tdInitUop]

/-- Settles O24: the two lists, with half of `2 * h` written as `h`. -/
theorem constructionListsAreInOrder : Obligations.ConstructionListsAreInOrder := by
  intro s h n
  have hte := teInit_list (Nat.dvd_mul_right 2 h) s
  rw [teInitList, Nat.mul_div_cancel_left h Nat.two_pos] at hte
  exact ⟨hte, tdInit_list n s⟩

/-! ## A table filled from index 0 on -/

section

variable {α : Type} (f : Nat → α) (m : Mem α)

/-- The element memory `m` once its elements below `n` have been written with the values of `f`, lowest first. -/
def memFill : Nat → Mem α
  | 0 => m
  | n + 1 => memWrite (memFill n) n (f n)

theorem memRead_memFill (n i : Nat) : memRead (memFill f m n) i = if i < n then some (f i) else memRead m i := by
  induction n with
  | zero => rfl
  | succ n ih =>
    rw [memFill, memRead_memWrite, ih]
    by_cases hlast : i = n
    · subst hlast
      simp
    · have hlt : i < n + 1 ↔ i < n := by omega
      simp only [if_neg hlast, hlt]

/-- Micro-operations `u 0 .. u (n-1)` that write the values of `f` into one memory; `put` is the state with that memory
in its place. -/
theorem performAll_fill {u : Nat → MicroOp} {put : Mem α → State}
    (hwrite : ∀ k m', perform (u k) (put m') = .ok (put (memWrite m' k (f k)))) (n : Nat) :
    performAll ((List.range n).map u) (put m) = .ok (put (memFill f m n)) := by
  induction n with
  | zero => rfl
  | succ n ih =>
    rw [List.range_succ, List.map_append]
    exact performAll_concat.2 ⟨_, ih, hwrite n _⟩

end

/-! ## The tables (R143 to R145, R152) -/

section

variable (s : State) (n : Nat)

theorem performAll_twgen : performAll ((List.range n).map .twgen) s =
    .ok { s with tw := memFill (twid s.build (curArg s)) s.tw n } :=
  performAll_fill (put := fun m => { s with tw := m }) _ _ (fun _ _ => rfl) n

theorem performAll_brgen : performAll ((List.range n).map .brgen) s =
    .ok { s with br := memFill (bitrev (Nat.log2 (curArg s))) s.br n } :=
  performAll_fill (put := fun m => { s with br := m }) _ _ (fun _ _ => rfl) n

theorem performAll_wingen : performAll ((List.range n).map .wingen) s =
    .ok { s with win := memFill (hann s.build (curArg s)) s.win n } :=
  performAll_fill (put := fun m => { s with win := m }) _ _ (fun _ _ => rfl) n

theorem performAll_dwgen : performAll ((List.range n).map .dwgen) s =
    .ok { s with dwin := memFill (hann s.build (curArg s)) s.dwin n } :=
  performAll_fill (put := fun m => { s with dwin := m }) _ _ (fun _ _ => rfl) n

theorem performAll_teInitList : performAll (teInitList n) s = .ok { s with
    tw := memFill (twid s.build (curArg s)) s.tw (n / 2)
    br := memFill (bitrev (Nat.log2 (curArg s))) s.br n
    win := memFill (hann s.build (curArg s)) s.win (n / 2 + 1) } := by
  rw [teInitList, performAll_append, performAll_append, performAll_twgen]
  simp only [bind, Except.bind, performAll_brgen, performAll_wingen]
  rfl

end

/-! ## The two commands, from issue to completion -/

section

variable {i : Instr} {us : List MicroOp} {s w : State} {n : Nat}

/-- The run of an accepted command whose list leaves `w`. -/
theorem Issuable.run_of_performAll (h : Issuable i us s) (hw : performAll us (accept (encode i) s) = .ok w) :
    run (us.length + 1) (accept (encode i) s) = .next (takeTurn s.pending (complete i w)) := by
  rw [h.run_eq, hw, h.pending]
  rfl

theorem teInit_issuable {l : Nat} (hready : ready s = true) (hl : 1 ≤ l) (hmax : l ≤ s.build.log2nMax)
    (hwf : (Instr.teInit (2 ^ l)).wf = true) : Issuable (.teInit (2 ^ l)) (teInitList (2 ^ l)) s := by
  obtain ⟨idle, rst, pending⟩ := ready_iff.1 hready
  exact { idle, rst, pending, word := decodeOfEncodeIsTheCommand _ hwf, notReset := nofun
          check := teInitCheck_two_pow hl hmax
          list := teInit_list (dvd_pow_self 2 (by omega)) s }

theorem tdInit_issuable (hready : ready s = true) (hone : 1 ≤ n) (hmax : n ≤ 2 ^ s.build.log2ndMax)
    (hwf : (Instr.tdInit n).wf = true) : Issuable (.tdInit n) (tdInitList n) s := by
  obtain ⟨idle, rst, pending⟩ := ready_iff.1 hready
  exact { idle, rst, pending, word := decodeOfEncodeIsTheCommand _ hwf, notReset := nofun
          check := if_neg (by omega)
          list := tdInit_list n s }

/-- While `TE.INIT n` or `TD.INIT n` runs, its micro-operations find `n` in the latch (R142, R151). -/
theorem curArg_accept (hwf : i.wf = true) : curArg (accept (encode i) s) = i.arg :=
  (fields_of_decode (decodeOfEncodeIsTheCommand i hwf)).2

end

/-- Settles O12: the list of `TE.INIT` fills the three tables, and its completion sets the sizes and the flags. -/
theorem teInitBuildsTheTables : Obligations.TeInitBuildsTheTables := by
  intro s L hready hL hmax hbuild
  have hwf : (Instr.teInit (2 ^ L)).wf = true := decide_eq_true (Nat.pow_lt_pow_right (by decide) (by omega))
  have hissue := teInit_issuable hready hL hmax hwf
  have hrun := hissue.run_of_performAll (performAll_teInitList _ _)
  rw [teInitList_length (dvd_pow_self 2 (by omega)), curArg_accept hwf] at hrun
  simp only [Instr.arg, Nat.log2_two_pow, accept_build, accept_tw, accept_br, accept_win] at hrun
  refine ⟨_, _, hissue.exec_eq, hrun, ?_, memRead_memFill _ _ _, memRead_memFill _ _ _, fun m => ?_⟩
  · rw [← encode_teInit hwf]
    simp only [complete, doneEffects, teInitDone, Nat.log2_two_pow]
    rfl
  · exact (memRead_memFill _ _ _ m).trans (if_congr Nat.lt_succ_iff rfl rfl)

/-- Settles O13: the list of `TD.INIT` fills `DWIN`, and its completion sets the length and the flags. -/
theorem tdInitBuildsTheWindow : Obligations.TdInitBuildsTheWindow := by
  intro s n hready hone hmax hbuild
  have hlog : 2 ^ s.build.log2ndMax ≤ 2 ^ 23 := Nat.pow_le_pow_right Nat.two_pos hbuild
  have hwf : (Instr.tdInit n).wf = true := decide_eq_true (by omega)
  have hissue := tdInit_issuable hready hone hmax hwf
  have hrun := hissue.run_of_performAll (performAll_dwgen _ _)
  rw [tdInitList_length, curArg_accept hwf] at hrun
  refine ⟨_, _, hissue.exec_eq, hrun, ?_, fun m => ?_⟩
  · rw [← encode_tdInit hwf]
    rfl
  · exact (memRead_memFill _ _ _ m).trans (if_congr Nat.lt_succ_iff rfl rfl)

end Sys2Proof.Machine
end

section
/-! The butterflies of the transform (R166, R167, R171): each works on a pair of its own, so a stage is its butterflies
done on the values before it, in whatever order. -/

namespace Sys2Proof.Machine

/-! ## What a micro-operation leaves of `WORK` -/

/-- Does the micro-operation write element `j` of `WORK`? Only `WLD` (R162) and `BFLY` (R166) write there. -/
def writesWork : MicroOp → Nat → Prop
  | .wld i, j => i = j
  | .bfly k q, j => q = pairOf k j
  | .twgen _, _ | .brgen _, _ | .wingen _, _ | .dwgen _, _ | .magk _, _ | .ons _, _ | .topclr, _ | .cbeg _, _
  | .cor _ _, _ | .peak _, _ => False

theorem perform_work_kept {u : MicroOp} {j : Nat} {s t : State} (hj : ¬ writesWork u j) (h : perform u s = .ok t) :
    memRead t.work j = memRead s.work j := by
  cases u with
  | wld i =>
    obtain ⟨_, _, _, _, _, _, rfl⟩ := doWld_ok h
    exact memRead_memWrite_other _ _ (Ne.symm hj)
  | bfly k q =>
    obtain ⟨_, _, _, _, _, _, rfl⟩ := doBfly_ok h
    obtain ⟨hlow, hup⟩ := not_or.1 (mt bfly_pair_iff.1 hj)
    exact (memRead_memWrite_other _ _ hlow).trans (memRead_memWrite_other _ _ hup)
  | twgen | brgen | wingen | dwgen | topclr | cbeg => cases h; rfl
  | magk k => obtain ⟨_, _, rfl⟩ := doMagk_ok h; rfl
  | ons n => obtain ⟨_, _, _, _, rfl⟩ := doOns_ok h; rfl
  | cor i n => obtain ⟨_, _, rfl⟩ := doCor_ok h; rfl
  | peak i => rw [(doPeak_ok h).1]

theorem performAll_work_kept {us : List MicroOp} {j : Nat} {s t : State} (hj : ∀ u ∈ us, ¬ writesWork u j)
    (h : performAll us s = .ok t) : memRead t.work j = memRead s.work j := by
  induction us generalizing s with
  | nil => cases h; rfl
  | cons u us ih =>
    obtain ⟨x, hx, hrest⟩ := bind_ok_iff.1 h
    exact (ih (fun v hv => hj v (List.mem_cons_of_mem u hv)) hrest).trans
      (perform_work_kept (hj u List.mem_cons_self) hx)

/-- Butterflies on pairs below `n` keep `WORK` from `n` on. -/
theorem bflies_work_kept {us : List MicroOp} {n : Nat} {s t : State}
    (hus : ∀ u ∈ us, ∃ k q, u = .bfly k q ∧ bflyUpper k q < n) (h : performAll us s = .ok t) :
    ∀ j, n ≤ j → memRead t.work j = memRead s.work j := by
  intro j hj
  refine performAll_work_kept (fun u hu hpair => ?_) h
  obtain ⟨k, q, rfl, hup⟩ := hus u hu
  have hlow : bflyLower k q ≤ bflyUpper k q := Nat.le_add_right _ _
  obtain hj' | hj' := bfly_pair_iff.2 hpair <;> omega

/-! ## One butterfly -/

/-- The pair of butterfly `q` of stage `k` holds in `m` what `BFLY` makes of the values of `s`, with the draws from `d`
on (R166). -/
def BflyDone (k q d : Nat) (s : State) (m : Mem Cplx) : Prop :=
  ∃ w v l, memRead s.tw (bflyTwidx s.teN k q) = some w ∧ memRead s.work (bflyUpper k q) = some v ∧
    memRead s.work (bflyLower k q) = some l ∧
    memRead m (bflyUpper k q) = some (csub s.build.flen (d + 6) l (cmul s.build.flen d w v)) ∧
    memRead m (bflyLower k q) = some (cadd s.build.flen (d + 8) l (cmul s.build.flen d w v))

section

variable {k q d : Nat} {s t : State} {m m' : Mem Cplx}

theorem doBfly_done (h : doBfly k q s = .ok t) : BflyDone k q s.nanDraws s t.work := by
  obtain ⟨w, v, l, hw, hv, hl, rfl⟩ := doBfly_ok h
  have hne : bflyUpper k q ≠ bflyLower k q := (Nat.lt_add_of_pos_right (Nat.two_pow_pos k)).ne'
  exact ⟨w, v, l, hw, hv, hl, (memRead_memWrite_other _ _ hne).trans (memRead_memWrite_same _ _ _),
    memRead_memWrite_same _ _ _⟩

theorem doBfly_frame (h : doBfly k q s = .ok t) : t = { s with work := t.work, nanDraws := s.nanDraws + 10 } := by
  obtain ⟨w, v, l, -, -, -, rfl⟩ := doBfly_ok h
  rfl

theorem doBfly_work_kept (h : doBfly k q s = .ok t) : ∀ j, q ≠ pairOf k j → memRead t.work j = memRead s.work j :=
  fun _ hj => perform_work_kept (u := .bfly k q) hj h

/-- Only the pair of the butterfly matters in the memory afterwards. -/
theorem BflyDone.congr_right (h : BflyDone k q d s m) (hm : ∀ j, q = pairOf k j → memRead m' j = memRead m j) :
    BflyDone k q d s m' := by
  obtain ⟨w, v, l, hw, hv, hl, hup, hlow⟩ := h
  exact ⟨w, v, l, hw, hv, hl, (hm _ (bfly_pair_iff.1 (.inr rfl))).trans hup,
    (hm _ (bfly_pair_iff.1 (.inl rfl))).trans hlow⟩

/-- Only the tables, the size and the pair of the butterfly matter in the state before. -/
theorem BflyDone.congr_left (h : BflyDone k q d t m) (hbuild : t.build = s.build) (hn : t.teN = s.teN)
    (htw : t.tw = s.tw) (hwork : ∀ j, q = pairOf k j → memRead t.work j = memRead s.work j) :
    BflyDone k q d s m := by
  obtain ⟨w, v, l, hw, hv, hl, hup, hlow⟩ := h
  rw [htw, hn] at hw
  rw [hbuild] at hup hlow
  exact ⟨w, v, l, hw, (hwork _ (bfly_pair_iff.1 (.inr rfl))).symm.trans hv,
    (hwork _ (bfly_pair_iff.1 (.inl rfl))).symm.trans hl, hup, hlow⟩

/-- The values of `s` decide what the pair holds once its butterfly is done. -/
theorem BflyDone.unique (h : BflyDone k q d s m) (h' : BflyDone k q d s m') {j : Nat} (hj : q = pairOf k j) :
    memRead m j = memRead m' j := by
  obtain ⟨w, v, l, hw, hv, hl, hup, hlow⟩ := h
  obtain ⟨w', v', l', hw', hv', hl', hup', hlow'⟩ := h'
  obtain rfl := Option.some.inj (hw.symm.trans hw')
  obtain rfl := Option.some.inj (hv.symm.trans hv')
  obtain rfl := Option.some.inj (hl.symm.trans hl')
  obtain rfl | rfl := bfly_pair_iff.2 hj
  · exact hlow.trans hlow'.symm
  · exact hup.trans hup'.symm

end

/-! ## Two butterflies -/

/-- Two butterflies of a stage one after the other: both are done on the values from before the first. -/
theorem bfly_bfly_done {k q q' d d' : Nat} {s a b : State} (hne : q ≠ q')
    (ha : doBfly k q { s with nanDraws := d } = .ok a) (hb : doBfly k q' { a with nanDraws := d' } = .ok b) :
    BflyDone k q d s b.work ∧ BflyDone k q' d' s b.work ∧
      ∀ j, q ≠ pairOf k j → q' ≠ pairOf k j → memRead b.work j = memRead s.work j := by
  have hframe := doBfly_frame ha
  have hkept := doBfly_work_kept ha
  have hkept' := doBfly_work_kept hb
  have hfirst : BflyDone k q d s b.work :=
    (doBfly_done ha).congr_right fun j hj => hkept' j (hj ▸ hne.symm)
  have hsecond : BflyDone k q' d' s b.work :=
    (doBfly_done hb).congr_left (by rw [hframe]) (by rw [hframe]) (by rw [hframe]) fun j hj => hkept j (hj ▸ hne)
  exact ⟨hfirst, hsecond, fun j hj hj' => (hkept' j hj').trans (hkept j hj)⟩

/-- Settles O29: in either order both are done on the values of `s`, each on its own pair. -/
theorem butterfliesOfAStageCommute : Obligations.ButterfliesOfAStageCommute := by
  intro s k q q' d d' hne a b a' b' ha hb ha' hb' j
  obtain ⟨hq, hq', hkept⟩ := bfly_bfly_done hne ha hb
  obtain ⟨hq'₂, hq₂, hkept₂⟩ := bfly_bfly_done hne.symm ha' hb'
  by_cases hj : q = pairOf k j
  · exact hq.unique hq₂ hj
  by_cases hj' : q' = pairOf k j
  · exact hq'.unique hq'₂ hj'
  · rw [hkept j hj hj', hkept₂ j hj' hj]

/-! ## All butterflies of a stage -/

theorem performAll_bflies_frame {us : List MicroOp} {s t : State} (hus : ∀ u ∈ us, ∃ k q, u = .bfly k q)
    (h : performAll us s = .ok t) :
    t = { s with work := t.work, nanDraws := s.nanDraws + 10 * us.length } := by
  induction us generalizing s with
  | nil => cases h; rfl
  | cons u us ih =>
    obtain ⟨x, hx, hrest⟩ := bind_ok_iff.1 h
    obtain ⟨k, q, rfl⟩ := hus u List.mem_cons_self
    have hframe := ih (fun v hv => hus v (List.mem_cons_of_mem _ hv)) hrest
    have hfirst := doBfly_frame hx
    generalize x.work = work at hfirst
    subst hfirst
    have hdraws : s.nanDraws + 10 * (MicroOp.bfly k q :: us).length = s.nanDraws + 10 + 10 * us.length := by
      rw [List.length_cons]
      omega
    rw [hdraws]
    exact hframe

theorem eq_bfly_of_mem_bflyList {h k : Nat} : ∀ u ∈ bflyList h k, ∃ k q, u = .bfly k q := by
  intro u hu
  obtain ⟨q, -, rfl⟩ := List.mem_map.1 hu
  exact ⟨k, q, rfl⟩

theorem bflyList_length (h k : Nat) : (bflyList h k).length = h := by simp [bflyList]

theorem performAll_bflyList_done {n k : Nat} {s w : State} (h : performAll (bflyList n k) s = .ok w) :
    ∀ q, q < n → BflyDone k q (s.nanDraws + 10 * q) s w.work := by
  induction n generalizing w with
  | zero => exact fun q hq => absurd hq (Nat.not_lt_zero q)
  | succ n ih =>
    rw [bflyList, List.range_succ, List.map_append] at h
    obtain ⟨y, hy, h⟩ := performAll_concat.1 h
    intro q hq
    by_cases hlast : q = n
    · subst hlast
      have hframe := performAll_bflies_frame eq_bfly_of_mem_bflyList hy
      have hdraws : y.nanDraws = s.nanDraws + 10 * q := by rw [hframe, bflyList_length]
      have hdone : BflyDone k q y.nanDraws y w.work := doBfly_done h
      rw [hdraws] at hdone
      refine hdone.congr_left (by rw [hframe]) (by rw [hframe]) (by rw [hframe])
        fun j hj => performAll_work_kept (fun u hu => ?_) hy
      obtain ⟨p, hp, rfl⟩ := List.mem_map.1 hu
      exact fun hpair => (List.mem_range.1 hp).ne (hpair.trans hj.symm)
    · exact (ih hy q (by omega)).congr_right fun j hj => doBfly_work_kept h j (hj ▸ Ne.symm hlast)

end Sys2Proof.Machine
end

section
/-! The transform commands (42_transform.md), from issue to completion: their lists, and what they leave (R161 to R165,
R174, R175). -/

namespace Sys2Proof.Machine

/-! ## The lists (R161, R165, R169, R174) -/

section

variable (s : State)

theorem teWinld_list : (List.range (listLen .teWinld s)).map (uopAt .teWinld s) = (wldList s.teN).map some := by
  simp [wldList, listLen, teWinldLen, uopAt, teWinldUop]

theorem teStage_list (k : Nat) :
    (List.range (listLen (.teStage k) s)).map (uopAt (.teStage k) s) = (bflyList (s.teN / 2) k).map some := by
  simp [bflyList, listLen, teStageLen, uopAt, teStageUop]

theorem teMag_list : (List.range (listLen .teMag s)).map (uopAt .teMag s) = (magkList (s.teN / 2)).map some := by
  simp [magkList, listLen, teMagLen, uopAt, teMagUop]

end

/-- Settles O25: the four lists, with half of `2 * h` written as `h`. -/
theorem transformListsAreInOrder : Obligations.TransformListsAreInOrder := by
  intro s h k hpos hn
  have hhalf : s.teN / 2 = h := by omega
  have hstage := teStage_list s k
  have hmag := teMag_list s
  have hxform := teXform_list (s := s) (by omega)
  rw [hhalf] at hstage hmag hxform
  rw [← List.append_assoc] at hxform
  exact ⟨teWinld_list s, hstage, hmag, hxform⟩

/-! ## `TE.WINLD` (R162 to R164) -/

theorem wldList_length (n : Nat) : (wldList n).length = n := by simp [wldList]

theorem wldList_work_kept {n : Nat} {s w : State} (h : performAll (wldList n) s = .ok w) :
    ∀ j, n ≤ j → memRead w.work j = memRead s.work j := by
  intro j hj
  refine performAll_work_kept (fun u hu => ?_) h
  obtain ⟨i, hi, rfl⟩ := List.mem_map.1 hu
  have hi := List.mem_range.1 hi
  exact fun hij : i = j => by omega

/-- Settles O14: the list of `TE.WINLD` writes the windowed samples, and its completion empties the input. -/
theorem winldWindowsAndReorders : Obligations.WinldWindowsAndReorders := by
  intro s hs hready hv hfull
  have hissue := teWinld_issuable hready hv hfull
  obtain ⟨w, hw⟩ := hissue.performAll_answers rfl hs
  obtain ⟨hexec, hrun⟩ := hissue.completes rfl hw
  obtain ⟨hframe, hread⟩ := performAll_wldList hw
  have hkept := wldList_work_kept hw
  rw [wldList_length] at hrun
  simp only [zeroT_false] at hread
  refine ⟨_, leaves .teWinld s w, hexec, hrun, ?_, hread, hkept⟩
  generalize w.work = work at hframe
  subst hframe
  rfl

/-! ## `TE.STAGE` (R165 to R167) -/

theorem Inv.teLog2n_le {s : State} (hs : Inv s) (hv : s.teValid = true) : s.teLog2n ≤ 23 := by
  obtain ⟨-, -, hmax⟩ := hs.teOn hv
  have hbuild := hs.build
  simp only [Build.wf, Bool.and_eq_true, decide_eq_true_eq] at hbuild
  omega

/-- Settles O15: the list of `TE.STAGE` does each butterfly on the values from before the command. -/
theorem stageDoesEveryButterfly : Obligations.StageDoesEveryButterfly := by
  intro s k hs hready hv hwork hk
  have hlog := hs.teLog2n_le hv
  have hwf : (Instr.teStage k).wf = true := decide_eq_true (by omega)
  have hissue := teStage_issuable hready hv hwork hk (by omega)
  obtain ⟨w, hw⟩ := hissue.performAll_answers rfl hs
  obtain ⟨hexec, hrun⟩ := hissue.completes rfl hw
  have hframe := performAll_bflies_frame eq_bfly_of_mem_bflyList hw
  rw [bflyList_length] at hrun hframe
  have hdone := performAll_bflyList_done hw
  have hkept := bflies_work_kept
    (fun u hu => stages_in_range hs hv u (List.mem_flatMap.2 ⟨k, List.mem_range.2 hk, hu⟩)) hw
  refine ⟨_, leaves (.teStage k) s w, hexec, hrun, ?_, hdone, hkept⟩
  rw [← encode_teStage hwf]
  generalize w.work = work at hframe
  subst hframe
  rfl

/-! ## `TE.XFORM` (R173 to R175) -/

theorem stages_length (l h : Nat) : ((List.range l).flatMap (bflyList h)).length = l * h := by
  simp [List.length_flatMap, bflyList_length]

theorem magkList_length (h : Nat) : (magkList h).length = h + 1 := by simp [magkList]

/-- Settles O17: the three parts of the list one after the other; the moduli are those of the `WORK` the stages leave,
which the last part keeps. -/
theorem xformLeavesSpectrumAndMagnitudes : Obligations.XformLeavesSpectrumAndMagnitudes := by
  intro s hs hready hv hfull
  have hissue := teXform_issuable hs hready hv hfull
  obtain ⟨w, hw⟩ := hissue.performAll_answers rfl hs
  obtain ⟨hexec, hrun⟩ := hissue.completes rfl hw
  have hlen : s.teN + (s.teLog2n * (s.teN / 2) + (s.teN / 2 + 1)) + 1 =
      s.teN + s.teLog2n * (s.teN / 2) + s.teN / 2 + 2 := by omega
  rw [List.length_append, List.length_append, wldList_length, stages_length, magkList_length, hlen] at hrun
  rw [performAll_append] at hw
  obtain ⟨x, hx, hw⟩ := bind_ok_iff.1 hw
  rw [performAll_append] at hw
  obtain ⟨y, hy, hw⟩ := bind_ok_iff.1 hw
  obtain ⟨hframex, -⟩ := performAll_wldList hx
  have hframey := performAll_bflies_frame
    (fun u hu => (stages_in_range hs hv u hu).imp fun k => Exists.imp fun q => And.left) hy
  rw [stages_length] at hframey
  have hkept : ∀ i, s.teN ≤ i → memRead y.work i = memRead s.work i := fun i hi =>
    (bflies_work_kept (stages_in_range hs hv) hy i hi).trans (wldList_work_kept hx i hi)
  obtain ⟨hframe, hout, hkeptout⟩ := performAll_magk hw
  generalize x.work = xwork at hframex
  subst hframex
  generalize y.work = ywork at hframey hkept
  subst hframey
  generalize w.out = wout at hframe hout hkeptout
  subst hframe
  exact ⟨_, leaves .teXform s _, hexec, hrun, rfl, fun k hk => hout k (by omega), hkept,
    fun k hk => hkeptout k (by omega)⟩

end Sys2Proof.Machine
end

section
/-! The lists of the detector commands (R191, R196, R197, R207): the list of `TD.SWEEP` candidate by candidate. -/

namespace Sys2Proof.Machine

/-- The part of the list of `TD.SWEEP` that belongs to candidate `i`, for a series of `n` values (R197). -/
def candidateList (n i : Nat) : List MicroOp := [.cbeg i] ++ (List.range n).map (.cor i) ++ [.peak i]

section

variable (s : State)

theorem onsList_eq : onsList s = (List.range (s.tdN - 1)).reverse.map fun n => .ons (n + 1) := by
  rw [List.range_eq_range', List.reverse_range', List.map_map]
  refine List.map_congr_left fun p hp => ?_
  have hp : p < s.tdN - 1 := List.mem_range.1 hp
  simp only [tdOnsetUop, Function.comp_apply, MicroOp.ons.injEq]
  omega

/-- The positions of one candidate: the first, the `ND` of the series, the last. -/
theorem candidate_positions (i : Nat) :
    (List.range (s.tdN + 2)).map (fun o =>
      if o = 0 then MicroOp.cbeg i else if o ≤ s.tdN then .cor i (o - 1) else .peak i) = candidateList s.tdN i := by
  rw [List.range_succ, List.range_succ_eq_map]
  simp only [candidateList, List.map_append, List.map_cons, List.map_map, List.map_nil, if_true]
  congr 2
  · refine List.map_congr_left fun n hn => ?_
    have hn : n + 1 ≤ s.tdN := List.mem_range.1 hn
    simp [hn]
  · simp

theorem sweepList_eq :
    sweepList s =
      .topclr :: (List.range (candidates s)).flatMap fun c => candidateList s.tdN (s.tdLo.toNat + c) := by
  rw [sweepList, tdSweepLen, Nat.add_comm, List.range_succ_eq_map, List.map_cons, List.map_map]
  congr 1
  simp only [← candidate_positions]
  rw [← map_range_mul (Nat.succ_pos _)]
  exact List.map_congr_left fun p _ => by simp [tdSweepUop]

end

/-- Settles O26: the two lists candidate by candidate and index by index; the list of `TD.DETECT` is one after the
other. -/
theorem detectorListsAreInOrder : Obligations.DetectorListsAreInOrder := by
  intro s
  have honset : (List.range (listLen .tdOnset s)).map (uopAt .tdOnset s) = (onsList s).map some := by
    simp [onsList, listLen, uopAt]
  have hsweep : (List.range (listLen .tdSweep s)).map (uopAt .tdSweep s) = (sweepList s).map some := by
    simp [sweepList, listLen, uopAt]
  refine ⟨by rw [honset, onsList_eq], by rw [hsweep, sweepList_eq]; rfl, ?_⟩
  rw [tdDetect_list, honset, hsweep, List.map_append]

end Sys2Proof.Machine
end

section
/-! The ranked insertion of R205 as an insertion into the list of the filled entries of `TOP`. -/

namespace Sys2Proof.Machine

open rankInsert (place)

/-! ## Insertion into a list -/

section

variable {f : Flen} {e : TopEntry} {l : List TopEntry} {slots : Nat}

theorem place_length (f : Flen) (e : TopEntry) (l : List TopEntry) : (place f e l).length = l.length + 1 := by
  have hcount : l.countP (fun x => !fgt f e.str x.str) ≤ l.length := List.countP_le_length
  simp only [place, List.length_append, List.length_take, List.length_cons, List.length_drop]
  omega

theorem place_getElem? (f : Flen) (e : TopEntry) (l : List TopEntry) (r : Nat) :
    (place f e l)[r]? =
      if r = l.countP (fun x => !fgt f e.str x.str) then some e
      else if l.countP (fun x => !fgt f e.str x.str) < r then l[r - 1]? else l[r]? := by
  have hcount : l.countP (fun x => !fgt f e.str x.str) ≤ l.length := List.countP_le_length
  rw [place]
  generalize l.countP (fun x => !fgt f e.str x.str) = p at hcount
  have hlen : (l.take p).length = p := by simp [hcount]
  rcases Nat.lt_trichotomy r p with hlt | rfl | hgt
  · rw [if_neg (by omega), if_neg (by omega), List.getElem?_append_left (by omega), List.getElem?_take_of_lt hlt]
  · simp [hcount]
  · obtain ⟨j, rfl⟩ : ∃ j, r = p + (j + 1) := ⟨r - p - 1, by omega⟩
    rw [if_neg (by omega), if_pos hgt, List.getElem?_append_right (by omega), hlen, Nat.add_sub_cancel_left,
      List.getElem?_cons_succ, List.getElem?_drop]
    rfl

/-- The three outcomes of R205: the newcomer is discarded, the weakest entry makes room for it, or there is room. -/
theorem rankInsert_cases (f : Flen) (slots : Nat) (e : TopEntry) (l : List TopEntry) :
    (l.length = slots ∧ rankInsert f slots e l = l) ∨
    (l.length = slots ∧ rankInsert f slots e l = place f e l.dropLast) ∨
    (l.length ≠ slots ∧ rankInsert f slots e l = place f e l) := by
  unfold rankInsert
  split_ifs with hfull
  · exact .inr (.inl ⟨hfull, rfl⟩)
  · exact .inl ⟨hfull, rfl⟩
  · exact .inr (.inr ⟨hfull, rfl⟩)

theorem rankInsert_length_le (h : l.length ≤ slots) (hslots : 1 ≤ slots) :
    (rankInsert f slots e l).length ≤ slots := by
  rcases rankInsert_cases f slots e l with ⟨hfull, hins⟩ | ⟨hfull, hins⟩ | ⟨hroom, hins⟩ <;> rw [hins]
  · exact h
  · rw [place_length, List.length_dropLast]
    omega
  · rw [place_length]
    omega

theorem length_le_rankInsert (f : Flen) (slots : Nat) (e : TopEntry) (l : List TopEntry) :
    l.length ≤ (rankInsert f slots e l).length := by
  rcases rankInsert_cases f slots e l with ⟨-, hins⟩ | ⟨-, hins⟩ | ⟨-, hins⟩ <;> rw [hins]
  · rw [place_length, List.length_dropLast]
    omega
  · rw [place_length]
    omega

/-! ## Descending strength -/

/-- In a descending list the entries that stay before `e` are those in front, by their number. -/
theorem place_splits (he : isNaN f e.str = false) (hnum : ∀ x ∈ l, isNaN f x.str = false) (hdesc : Descending f l) :
    (∀ x ∈ l.take (l.countP fun x => !fgt f e.str x.str), fgt f e.str x.str = false) ∧
      ∀ x ∈ l.drop (l.countP fun x => !fgt f e.str x.str), fgt f e.str x.str = true := by
  induction l with
  | nil => simp
  | cons x l ih =>
    obtain ⟨hx, htail⟩ := List.pairwise_cons.1 hdesc
    rw [List.forall_mem_cons] at hnum
    obtain ⟨hxnum, hnum⟩ := hnum
    cases hgt : fgt f e.str x.str with
    | false =>
      obtain ⟨hbefore, hafter⟩ := ih hnum htail
      simpa [hgt] using ⟨hbefore, hafter⟩
    | true =>
      have hall : ∀ y ∈ l, fgt f e.str y.str = true := by
        intro y hy
        have hle := mt (fgt_iff (hnum y hy) hxnum).2 (by simp [hx y hy])
        have hlt := (fgt_iff he hxnum).1 hgt
        exact (fgt_iff he (hnum y hy)).2 (by omega)
      have hcount : l.countP (fun x => !fgt f e.str x.str) = 0 := List.countP_eq_zero.2 fun y hy => by simp [hall y hy]
      simpa [hgt, hcount] using hall

theorem place_descending (he : isNaN f e.str = false) (hnum : ∀ x ∈ l, isNaN f x.str = false)
    (hdesc : Descending f l) : Descending f (place f e l) := by
  obtain ⟨hbefore, hafter⟩ := place_splits he hnum hdesc
  have hwhole := hdesc
  rw [← List.take_append_drop (l.countP fun x => !fgt f e.str x.str) l] at hwhole
  obtain ⟨htake, hdrop, hcross⟩ := List.pairwise_append.1 hwhole
  refine List.pairwise_append.2 ⟨htake, List.pairwise_cons.2 ⟨fun y hy => ?_, hdrop⟩, fun x hx y hy => ?_⟩
  · have hynum := hnum y (List.mem_of_mem_drop hy)
    have hlt := (fgt_iff he hynum).1 (hafter y hy)
    exact Bool.eq_false_iff.2 (mt (fgt_iff hynum he).1 (by omega))
  · rcases List.mem_cons.1 hy with rfl | hy
    · exact hbefore x hx
    · exact hcross x hx y hy

theorem rankInsert_descending (he : isNaN f e.str = false) (hnum : ∀ x ∈ l, isNaN f x.str = false)
    (hdesc : Descending f l) : Descending f (rankInsert f slots e l) := by
  rcases rankInsert_cases f slots e l with ⟨-, hins⟩ | ⟨-, hins⟩ | ⟨-, hins⟩ <;> rw [hins]
  · exact hdesc
  · exact place_descending he (fun x hx => hnum x (List.mem_of_mem_dropLast hx))
      (hdesc.sublist (List.dropLast_sublist l))
  · exact place_descending he hnum hdesc

end

/-! ## Insertion into `TOP` -/

/-- The first entries of `TOP` are those of the list `l`. -/
def TopLists (m : Mem TopEntry) (l : List TopEntry) : Prop := ∀ r, r < l.length → memRead m r = l[r]?

section

variable {s : State} {l : List TopEntry} {str : T} {cand : BitVec 24}

/-- `insertAmong` counts and moves the entries of a list that stands at the front of `TOP`. -/
theorem insertAmong_place {k : Nat} (hl : TopLists s.top l) (hk : k ≤ l.length) :
    ∃ m, insertAmong k str cand s = .ok { s with top := m, topcnt := k + 1 } ∧
      TopLists m (place s.build.flen { str := str, cand := cand } (l.take k)) ∧
      ∀ r, k + 1 ≤ r → memRead m r = memRead s.top r := by
  have hget : ∀ r (hr : r < l.length), memRead s.top r = some l[r] := fun r hr => by
    rw [hl r hr, List.getElem?_eq_getElem hr]
  have hcount := countNotWeaker_of_list (f := s.build.flen) (str := str) hget k hk
  have hp : (l.take k).countP (fun x => !fgt s.build.flen str x.str) ≤ k :=
    List.countP_le_length.trans (List.length_take_le k l)
  have hplace := place_getElem? s.build.flen { str := str, cand := cand } (l.take k)
  have hlen := place_length s.build.flen { str := str, cand := cand } (l.take k)
  rw [List.length_take, min_eq_left hk] at hlen
  dsimp only at hplace
  generalize (l.take k).countP (fun x => !fgt s.build.flen str x.str) = p at hcount hp hplace
  obtain ⟨m, hm, -, hread⟩ := shiftTop_of_written p (k - p) s.top fun j _ hj => by
    rw [written, hget j (by omega)]
    rfl
  rw [Nat.add_sub_cancel' hp] at hread
  refine ⟨memWrite m p { str := str, cand := cand }, ?_, fun r hr => ?_, fun r hr => ?_⟩
  · simp only [insertAmong, hcount, bind, Except.bind, hm]
  · have hmoved : ∀ j, j < k → memRead s.top j = (l.take k)[j]? := fun j hj => by
      rw [List.getElem?_take_of_lt hj, hl j (by omega)]
    rw [hplace, memRead_memWrite, hread]
    rcases Nat.lt_trichotomy r p with hlt | rfl | hgt
    · rw [if_neg hlt.ne, if_neg (by omega), if_neg hlt.ne, if_neg (by omega), hmoved r (by omega)]
    · rw [if_pos rfl, if_pos rfl]
    · rw [if_neg hgt.ne', if_pos (by omega), if_neg hgt.ne', if_pos hgt, hmoved (r - 1) (by omega)]
  · rw [memRead_memWrite_other _ _ (by omega), hread, if_neg (by omega)]

/-- R205: `INSERT` is the insertion into the list of the filled entries; the entries behind them are kept. -/
theorem insertTop_rankInsert (str : T) (cand : BitVec 24) (hslots : 1 ≤ s.build.slots) (hcnt : s.topcnt = l.length)
    (hl : TopLists s.top l) :
    ∃ m, insertTop str cand s =
        .ok { s with
          top := m
          topcnt := (rankInsert s.build.flen s.build.slots { str := str, cand := cand } l).length } ∧
      TopLists m (rankInsert s.build.flen s.build.slots { str := str, cand := cand } l) ∧
      ∀ r, (rankInsert s.build.flen s.build.slots { str := str, cand := cand } l).length ≤ r →
        memRead m r = memRead s.top r := by
  unfold insertTop rankInsert
  rw [hcnt]
  by_cases hfull : l.length = s.build.slots
  · have hlast : s.build.slots - 1 < l.length := by omega
    have hread : memRead s.top (s.build.slots - 1) = some l[s.build.slots - 1] := by
      rw [hl _ hlast, List.getElem?_eq_getElem hlast]
    have hdrop : l.dropLast = l.take (s.build.slots - 1) := by rw [List.dropLast_eq_take, hfull]
    simp only [if_pos hfull, readElem_of_read hread, bind, Except.bind, List.getElem?_eq_getElem hlast,
      Option.getD_some]
    split
    · simp only [place_length, hdrop, List.length_take, min_eq_left hlast.le]
      exact insertAmong_place hl hlast.le
    · exact ⟨s.top, by rw [← hcnt], hl, fun _ _ => rfl⟩
  · simp only [if_neg hfull, place_length]
    have hamong := insertAmong_place (str := str) (cand := cand) hl le_rfl
    rwa [List.take_length] at hamong

end

/-- Settles O31: `INSERT` as the insertion into a list, and what that does to its length and its order. -/
theorem insertKeepsTheStrongestInOrder : Obligations.InsertKeepsTheStrongestInOrder := by
  intro s str cand l hslots hcnt hlen hl
  obtain ⟨m, hm, hlists, hkept⟩ := insertTop_rankInsert str cand hslots hcnt hl
  exact ⟨_, hm, rfl, rankInsert_length_le hlen hslots, hlists, hkept, rfl,
    rankInsert_descending (e := { str := str, cand := cand })⟩

end Sys2Proof.Machine
end

section
/-! The sweep of `TD.SWEEP` (R195 to R206): its list, candidate by candidate, does the steps of the tracker. -/

namespace Sys2Proof.Machine

/-! ## What the micro-operations of a sweep write -/

/-- `s` with everything the micro-operations of a sweep may write taken from `w`: the ranked collection, the hidden
detector state, and the count of NaN draws. -/
def withSweep (s w : State) : State :=
  { s with
    top := w.top, topcnt := w.topcnt, b := w.b, sre := w.sre, sim := w.sim, pres := w.pres, pslope := w.pslope
    nanDraws := w.nanDraws }

/-! ## The running sum (R203) -/

section

variable {s x w : State} {i n : Nat}

theorem corTerm_ok {a : T} (h : corTerm s n = .ok a) : a = seriesTerm s s.nanDraws n := by
  obtain ⟨v, hv, h⟩ := bind_ok_iff.1 h
  rw [readElem_ok_iff] at hv
  rw [seriesTerm, hv]
  split_ifs at h ⊢
  · obtain ⟨c, hc, h⟩ := bind_ok_iff.1 h
    rw [readElem_ok_iff] at hc
    rw [hc]
    exact (Except.ok.inj h).symm
  · exact (Except.ok.inj h).symm

/-- The list of `COR i, n` from a cleared sum leaves the correlation of the series for the ratio in `B`. -/
theorem performAll_cor (hx : x = withSweep s x) (hre : x.sre = zeroT s.build.flen false)
    (him : x.sim = zeroT s.build.flen false) (h : performAll ((List.range n).map (.cor i)) x = .ok w) :
    w = { x with
          sre := (correlation s x.b x.nanDraws n).re, sim := (correlation s x.b x.nanDraws n).im
          nanDraws := x.nanDraws + 5 * n } := by
  induction n generalizing w with
  | zero =>
    cases h
    have hsum : correlation s x.b x.nanDraws 0 = { re := x.sre, im := x.sim } := by
      rw [hre, him]
      rfl
    rw [hsum]
    rfl
  | succ n ih =>
    rw [List.range_succ, List.map_append] at h
    obtain ⟨y, hy, h⟩ := performAll_concat.1 h
    obtain rfl := ih hy
    obtain ⟨a, ha, rfl⟩ := doCor_ok h
    obtain rfl := corTerm_ok ha
    rw [hx]
    rfl

end

/-! ## The ranked collection (R204, R205) -/

/-- The filled entries of `TOP` are the list `l`, and the slots behind them are empty (R200, R205). -/
structure Ranks (s : State) (l : List TopEntry) : Prop where
  slots : l.length ≤ s.build.slots
  count : s.topcnt = l.length
  entry : ∀ r, r < s.build.slots → memRead s.top r = some ((l[r]?).getD { str := 0, cand := 0 })

/-- The pair that candidate `i` with the result `res` reports, `prev` being the result before it (R204). -/
def reported (b : Build) (i : Nat) (res prev : T) : TopEntry :=
  match b.peakReport with
  | .current => { str := res, cand := BitVec.ofNat 24 i }
  | .previous => { str := prev, cand := BitVec.ofNat 24 (i - 1) }

section

variable {s x w : State} {i d : Nat} {l : List TopEntry} {t : Tracker}

theorem Ranks.topLists (h : Ranks s l) : TopLists s.top l := by
  intro r hr
  rw [h.entry r (hr.trans_le h.slots), List.getElem?_eq_getElem hr, Option.getD_some]

theorem doTopclr_ranks (s : State) : Ranks (doTopclr s) [] where
  slots := Nat.zero_le _
  count := rfl
  entry r hr := by
    have hr : r < s.build.slots := hr
    refine (memRead_clearTop _ _ _ _).trans ?_
    rw [if_pos hr, emptyEntry, zeroT_false]
    rfl

/-- An insertion keeps the slots behind the filled ones empty. -/
theorem insertTop_ranks {e : TopEntry} (hslots : 1 ≤ s.build.slots) (hs : Ranks s l)
    (h : insertTop e.str e.cand s = .ok w) : Ranks w (rankInsert s.build.flen s.build.slots e l) := by
  obtain ⟨m, hm, hlists, hkept⟩ := insertTop_rankInsert e.str e.cand hslots hs.count hs.topLists
  have hlen := length_le_rankInsert s.build.flen s.build.slots e l
  cases hm.symm.trans h
  refine ⟨rankInsert_length_le hs.slots hslots, rfl, fun r hr => ?_⟩
  rcases Nat.lt_or_ge r (rankInsert s.build.flen s.build.slots e l).length with hin | hout
  · rw [List.getElem?_eq_getElem hin, Option.getD_some, ← List.getElem?_eq_getElem hin]
    exact hlists r hin
  · rw [List.getElem?_eq_none hout]
    refine (hkept r hout).trans ?_
    rw [hs.entry r hr, List.getElem?_eq_none (hlen.trans hout)]

theorem reportPeak_eq (i : Nat) (res : T) (s : State) :
    reportPeak i res s = insertTop (reported s.build i res s.pres).str (reported s.build i res s.pres).cand s := by
  unfold reportPeak reported
  cases s.build.peakReport <;> rfl

theorem trackStep_ranked (s : State) (d i : Nat) (t : Tracker) :
    (trackStep s d i t).ranked =
      if slopeTurned s.build.flen t.pslope (trackStep s d i t).pslope then
        rankInsert s.build.flen s.build.slots (reported s.build i (strength s d i) t.pres) t.ranked
      else t.ranked := by
  unfold trackStep reported
  cases s.build.peakReport <;> rfl

/-- The ranked collection after `PEAK`: one insertion more, where the slope has turned. -/
theorem doPeak_ranks (hslots : 1 ≤ s.build.slots) (hs : Ranks s l) (h : doPeak i s = .ok w) :
    Ranks w (if slopeTurned s.build.flen s.pslope w.pslope then
      rankInsert s.build.flen s.build.slots (reported s.build i w.pres s.pres) l else l) := by
  simp only [doPeak] at h
  split at h
  · next hturned =>
    obtain ⟨u, hu, h⟩ := bind_ok_iff.1 h
    rw [reportPeak_eq] at hu
    obtain ⟨hslots', hcount, hentry⟩ := insertTop_ranks hslots hs hu
    cases h
    rw [draw_pslope, if_pos hturned]
    exact ⟨hslots', hcount, hentry⟩
  · next hnot =>
    cases h
    rw [draw_pslope, if_neg hnot]
    exact ⟨hs.slots, hs.count, hs.entry⟩

/-! ## One candidate (R197, R202 to R204) -/

/-- `x` is where the sweep that began in `s` stands when the tracker is `t` and `d` is the next draw. -/
structure Sweeping (s : State) (d : Nat) (t : Tracker) (x : State) : Prop where
  frame : x = withSweep s x
  draws : x.nanDraws = d
  pres : x.pres = t.pres
  pslope : x.pslope = t.pslope
  ranks : Ranks x t.ranked

theorem doTopclr_sweeping (s : State) : Sweeping s s.nanDraws (sweepTracker s s.nanDraws 0) (doTopclr s) :=
  ⟨rfl, rfl, rfl, rfl, doTopclr_ranks s⟩

/-- `PEAK i` does the tracker's step, when the running sum is the candidate's correlation. -/
theorem peak_sweeping (hslots : 1 ≤ s.build.slots) (hx : Sweeping s (d + 1 + 5 * s.tdN) t x)
    (hsum : { re := x.sre, im := x.sim } = correlation s (ratio s d i) (d + 1) s.tdN)
    (h : perform (.peak i) x = .ok w) :
    Sweeping s (d + (5 * s.tdN + 6)) (trackStep s d i t) w := by
  obtain ⟨hframe, -⟩ := doPeak_ok h
  have hbuild : x.build = s.build := by rw [hx.frame]; rfl
  have hpres : w.pres = (trackStep s d i t).pres := by
    rw [hframe, hsum, hbuild, hx.draws]
    rfl
  have hpslope : w.pslope = (trackStep s d i t).pslope := by
    rw [hframe, hsum, hbuild, hx.draws, hx.pres]
    rfl
  refine ⟨?_, ?_, hpres, hpslope, ?_⟩
  · rw [hframe, hx.frame]
    rfl
  · rw [hframe]
    show x.nanDraws + 5 = _
    rw [hx.draws]
    omega
  · have hranks := doPeak_ranks (hbuild ▸ hslots) hx.ranks h
    rw [hbuild, hx.pslope, hpslope, hpres, hx.pres] at hranks
    rw [trackStep_ranked]
    exact hranks

theorem performAll_candidate (hslots : 1 ≤ s.build.slots) (hx : Sweeping s d t x)
    (h : performAll (candidateList s.tdN i) x = .ok w) :
    Sweeping s (d + (5 * s.tdN + 6)) (trackStep s d i t) w := by
  obtain ⟨y, hy, h⟩ := performAll_concat.1 h
  have hbeg : performAll ((List.range s.tdN).map (.cor i)) (doCbeg i x) = .ok y := hy
  have hsum := performAll_cor (s := s) (x := doCbeg i x) (by rw [hx.frame]; rfl) (by rw [hx.frame]; rfl)
    (by rw [hx.frame]; rfl) hbeg
  have hratio : (doCbeg i x).b = ratio s d i := by
    rw [← hx.draws, hx.frame]
    rfl
  have hdraw : (doCbeg i x).nanDraws = d + 1 := by rw [← hx.draws]; rfl
  rw [hratio, hdraw] at hsum
  have hy : Sweeping s (d + 1 + 5 * s.tdN) t y := by
    rw [hsum]
    obtain ⟨hframe, hdraws, hpres, hpslope, hranks⟩ := hx
    refine ⟨?_, rfl, hpres, hpslope, ⟨hranks.slots, hranks.count, hranks.entry⟩⟩
    rw [hframe]
    rfl
  exact peak_sweeping hslots hy (by rw [hsum]) h

/-! ## The whole sweep -/

theorem performAll_candidates {c : Nat} (hslots : 1 ≤ s.build.slots) (hx : Sweeping s d (sweepTracker s d 0) x)
    (h : performAll ((List.range c).flatMap fun j => candidateList s.tdN (s.tdLo.toNat + j)) x = .ok w) :
    Sweeping s (d + c * (5 * s.tdN + 6)) (sweepTracker s d c) w := by
  induction c generalizing w with
  | zero =>
    cases h
    rwa [Nat.zero_mul]
  | succ c ih =>
    rw [List.range_succ, List.flatMap_append, List.flatMap_singleton, performAll_append] at h
    obtain ⟨y, hy, h⟩ := bind_ok_iff.1 h
    rw [Nat.succ_mul, ← Nat.add_assoc]
    exact performAll_candidate hslots (ih hy) h

theorem performAll_sweepList (hslots : 1 ≤ s.build.slots) (h : performAll (sweepList s) s = .ok w) :
    Sweeping s (s.nanDraws + candidates s * (5 * s.tdN + 6)) (sweepTracker s s.nanDraws (candidates s)) w := by
  rw [sweepList_eq, performAll_cons] at h
  exact performAll_candidates hslots (doTopclr_sweeping s) h

end

/-- Settles O21: the list of `TD.SWEEP` does the tracker's steps, and its completion is that of R206. -/
theorem sweepRanksTheCandidates : Obligations.SweepRanksTheCandidates := by
  intro s hs hready hv hons hlo hfs
  have hissue := tdSweep_issuable hready hv hons (sweepArgsBad_eq hlo hfs)
  obtain ⟨w, hw⟩ := hissue.performAll_answers rfl hs
  obtain ⟨hexec, hrun⟩ := hissue.completes rfl hw
  have hlen : (sweepList s).length = 1 + candidates s * (s.tdN + 2) := by simp [sweepList, tdSweepLen]
  rw [hlen] at hrun
  obtain ⟨hframe, hdraws, -, -, hranks⟩ := performAll_sweepList hs.slots_pos hw
  have hbuild : w.build = s.build := by rw [hframe]; rfl
  refine ⟨_, leaves .tdSweep s w, hexec, hrun, ?_, fun r hr => hranks.entry r (hbuild ▸ hr), hranks.count⟩
  rw [← candidates, ← hdraws, hframe]
  rfl

end Sys2Proof.Machine
end

section
/-! Commands issued to a busy engine, and `NOP` (R232, R233, R240). -/

namespace Sys2Proof.Machine

/-- Settles O8: while busy, the issue of R233 looks at no acceptance check. -/
theorem busyEngineRefusesCommands : Obligations.BusyEngineRefusesCommands := by
  intro i s hb hi
  rw [exec_eq_issue hi, issue_busy hb]

theorem nop_issuable {s : State} (hready : ready s = true) : Issuable .nop [] s := by
  obtain ⟨idle, rst, pending⟩ := ready_iff.1 hready
  exact { idle, rst, pending, word := by decide, notReset := nofun, check := rfl, list := rfl }

/-- Settles O10: the list of `NOP` is empty, so its first sequencer step is its completion step. -/
theorem nopOnlySetsDone : Obligations.NopOnlySetsDone := by
  have hword : encode .nop = 0 := by decide
  refine ⟨hword, by decide, fun s => ⟨fun hb => ?_, fun hready => ?_⟩⟩
  · rw [busyEngineRefusesCommands .nop s hb nofun, hword]
  · have haccept : accept (encode .nop) s = busyWith 0x00000000 0x00 false s := by
      rw [hword]
      rfl
    have hleaves : leaves .nop s s = idleAfter 0x00000000 s := by
      rw [leaves, hword]
      rfl
    rw [← haccept, ← hleaves]
    exact (nop_issuable hready).completes rfl (performAll_nil s)

end Sys2Proof.Machine
end

section
/-! What R236 leaves to the host while a command runs: a host turn keeps `engineOf`, and what a sequencer turn makes of
`engineOf` depends on `engineOf` alone. -/

namespace Sys2Proof.Machine

/-! ## Addresses of registers (R23, R61) -/

theorem addr_ext {a b : Addr} (hspace : addrSpace a = addrSpace b) (hidx : addrIdx a = addrIdx b) : a = b := by
  have ha := a.isLt
  have hb := b.isLt
  simp only [addrSpace, addrIdx, BitVec.extractLsb'_toNat, Nat.shiftRight_eq_div_pow] at hspace hidx
  refine BitVec.eq_of_toNat_eq ?_
  omega

/-- The table of R23 lists a register at one index only. -/
theorem addrIdx_regAddr_of_regAt {idx : Nat} {r : Reg} (h : regAt idx = some r) : idx = addrIdx (regAddr r) := by
  unfold regAt at h
  split at h <;> cases h <;> rfl

/-- The converse of `regAt_regAddr`. -/
theorem eq_regAddr {a : Addr} {r : Reg} (hspace : addrSpace a = 0) (hr : regAt (addrIdx a) = some r) :
    a = regAddr r :=
  addr_ext (hspace.trans (regAt_regAddr r).1.symm) (addrIdx_regAddr_of_regAt hr)

/-! ## Host turns -/

section

variable {s t : State}

/-- A host write is refused, or it reaches the rule of a register that is not locked out (R66, R68). -/
theorem hostWrite_cases (a : Addr) (v : Word) (s : State) :
    (∃ e info, hostWrite a v s = .next (raise e info s)) ∨
    ∃ r : Reg, a = regAddr r ∧ (r.lockedWhileBusy && s.busy) = false ∧ hostWrite a v s = writeReg r a v s := by
  by_cases hspace : addrSpace a = 0
  · cases hreg : regAt (addrIdx a) with
    | none => exact .inl ⟨.acc, a, by simp [hostWrite, hspace, hreg]⟩
    | some r =>
      obtain rfl := eq_regAddr hspace hreg
      rw [hostWrite_regAddr]
      split_ifs with hro hlock
      · exact .inl ⟨.acc, _, rfl⟩
      · exact .inl ⟨.busy, _, rfl⟩
      · exact .inr ⟨r, rfl, Bool.eq_false_iff.2 hlock, rfl⟩
  · exact .inl ⟨.acc, a, if_pos hspace⟩

/-- R233: while busy, every word but that of `RESET` is refused with itself as the recorded value. -/
theorem issueWord_busy {c : CmdWord} (hb : s.busy = true) (hreset : decode c ≠ .ok .reset) :
    issueWord c s = .next (raise .busy c s) := by
  cases hd : decode c with
  | error e => exact issueWord_reserved_busy hd hb
  | ok i =>
    have hi : i ≠ .reset := fun h => hreset (h ▸ hd)
    have hexec := busyEngineRefusesCommands i s hb hi
    rw [(encodeOfDecodeIsTheWord c i hd).2] at hexec
    rw [issueWord, hd]
    exact hexec

theorem hostWrite_keeps_engineOf {a : Addr} {v : Word} (hb : s.busy = true)
    (hno : noReset (.hostWrite a v) = true) (h : hostWrite a v s = .next t) : engineOf t = engineOf s := by
  obtain ⟨e, info, hraise⟩ | ⟨r, rfl, hlock, hwrite⟩ := hostWrite_cases a v s
  · cases hraise.symm.trans h
    rfl
  · rw [hwrite] at h
    cases r with
    | cmd =>
      have hreset : decode (lowWord v) ≠ .ok .reset := by simpa [noReset, noReset.regCmd, regAddr] using hno
      cases (issueWord_busy hb hreset).symm.trans h
      rfl
    | ip =>
      cases h
      split <;> rfl
    | err | ie | cap | status | ecode | einfo | seq | teN | teLog2n | teIncnt | tdN | tdIncnt =>
      cases h
      rfl
    | tePush | tdPush | tdFs | tdFrame | tdLo | tdHi | tdCtrl => exact absurd hb (Bool.eq_false_iff.1 hlock)

theorem hostRead_keeps_engineOf {a : Addr} (hb : s.busy = true) (h : hostRead a s = .ok t) :
    engineOf t = engineOf s := by
  by_cases hspace : addrSpace a = 0
  · cases hreg : regAt (addrIdx a) with
    | none => cases (hostRead_unmappedReg hspace hreg).symm.trans h; rfl
    | some r => cases (hostRead_reg hspace hreg).symm.trans h; rfl
  · cases (hostRead_memBusy hspace hb).symm.trans h
    rfl

theorem hostTurn_keeps_engineOf {e : Event} {rest : List Event} (hb : s.busy = true) (hrst : s.rst = false)
    (hp : s.pending = e :: rest) (hno : noReset e = true) (hseq : e ≠ .sequencer) (h : step s = .next t) :
    engineOf t = engineOf s := by
  cases e with
  | hostRead a =>
    rw [step_hostRead hrst hp, ofExcept_next_iff] at h
    exact hostRead_keeps_engineOf (s := takeTurn rest s) hb h
  | hostWrite a v =>
    rw [step_hostWrite hrst hp] at h
    exact hostWrite_keeps_engineOf (s := { s with pending := rest, rsp := .written }) hb hno h
  | sequencer => exact absurd rfl hseq
  | resetAssert | resetRelease => cases hno

end

/-! ## Sequencer turns -/

section

variable {i : Instr} {s t : State}

/-- The sequencer neither reads nor, but for `IP.DONE` at the completion, writes what `engineOf` leaves out. -/
theorem listStep_engineOf (i : Instr) (s : State) :
    (listStep i (engineOf s)).map engineOf = (listStep i s).map engineOf := by
  have hlen : listLen i (engineOf s) = listLen i s := by cases i <;> rfl
  have huop : uopAt i (engineOf s) = uopAt i s := by cases i <;> rfl
  by_cases hlt : s.seq < listLen i s
  · obtain ⟨u, hu⟩ := uopAt_isSome hlt
    have hperform : perform u (engineOf s) = (perform u s).map (withControl (engineOf s)) :=
      perform_withControl (k := engineOf s) (s := s) fun _ => rfl
    have hlt' : (engineOf s).seq < listLen i (engineOf s) := hlen ▸ hlt
    have hu' : uopAt i (engineOf s) (engineOf s).seq = some u := huop ▸ hu
    cases ht : perform u s with
    | error e =>
      rw [ht] at hperform
      simp only [listStep, if_pos hlt, if_pos hlt', hu, hu', ht, hperform]
      rfl
    | ok t =>
      rw [ht] at hperform
      rw [listStep_uop hlt hu ht, listStep_uop hlt' hu' hperform, perform_frame ht]
      rfl
  · have hge := Nat.le_of_not_lt hlt
    rw [listStep_done hge, listStep_done (s := engineOf s) (hlen ▸ hge)]
    cases i <;> rfl

/-- The next turn is the sequencer's if it is listed as such, and if none is listed (log 12). -/
theorem step_sequencer (h : Alone i (engineOf s)) (hnext : s.pending.headD .sequencer = .sequencer) :
    step s = ofExcept (listStep i (takeTurn s.pending.tail s)) := by
  have hb : (takeTurn s.pending.tail s).busy = true := h.busy
  have hrst : (takeTurn s.pending.tail s).rst = false := h.rst
  have hturn : step s = agentTurn .sequencer (takeTurn s.pending.tail s) := by
    cases hp : s.pending with
    | nil => exact step_nil hp
    | cons e rest =>
      obtain rfl : e = .sequencer := by simpa [hp] using hnext
      exact step_cons hp
  rw [hturn, agentTurn, hrst, if_neg Bool.false_ne_true, sequencerTurn, if_pos hb,
    sequencerStep_of_decode (s := takeTurn s.pending.tail s) h.latch h.notReset]

/-- What a sequencer turn makes of `engineOf`, as a function of `engineOf`. -/
theorem sequencerTurn_engineOf (h : Alone i (engineOf s)) (hnext : s.pending.headD .sequencer = .sequencer)
    (hstep : step s = .next t) : (listStep i (engineOf s)).map engineOf = .ok (engineOf t) := by
  rw [step_sequencer h hnext, ofExcept_next_iff] at hstep
  have hengine : engineOf (takeTurn s.pending.tail s) = engineOf s := rfl
  rw [← hengine, listStep_engineOf, hstep]
  rfl

theorem sequencerTurns_agree {s' t' : State} (h : Alone i (engineOf s)) (heq : engineOf s = engineOf s')
    (hnext : s.pending.headD .sequencer = .sequencer) (hnext' : s'.pending.headD .sequencer = .sequencer)
    (hstep : step s = .next t) (hstep' : step s' = .next t') : engineOf t = engineOf t' := by
  have ht := sequencerTurn_engineOf h hnext hstep
  have ht' := sequencerTurn_engineOf (heq ▸ h) hnext' hstep'
  rw [← heq] at ht'
  exact Except.ok.inj (ht.symm.trans ht')

end

/-! ## Runs -/

section

variable {s t : State}

theorem StepEffect.pending_eq (h : StepEffect s t) : t.pending = s.pending := by
  cases h with
  | performed hb hd hr hlt hu ht => rw [perform_frame ht]; rfl
  | @completed i => cases i <;> rfl
  | _ => rfl

/-- Every step takes the first of the listed turns, and nothing else changes the list. -/
theorem step_pending (h : step s = .next t) : t.pending = s.pending.tail := by
  cases hp : s.pending with
  | nil =>
    rw [step_nil hp] at h
    exact (agentTurn_effect h).elim StepEffect.pending_eq StepEffect.pending_eq
  | cons e rest =>
    rw [step_cons hp] at h
    exact (agentTurn_effect h).elim StepEffect.pending_eq StepEffect.pending_eq

theorem Alone.of_engineOf_eq {i : Instr} (h : Alone i t) (heq : engineOf s = engineOf t) : Alone i (engineOf s) :=
  heq ▸ ⟨h.busy, h.rst, rfl, h.latch, h.notReset⟩

/-- Host turns among the sequencer's steps against the sequencer alone, by induction on the turns. -/
theorem run_keeps_engineOf {i : Instr} {es : List Event} (hs : Inv s) (ht : Inv t) (halone : Alone i t)
    (heq : engineOf s = engineOf t) (hp : s.pending = es) (hno : ∀ e ∈ es, noReset e = true)
    (hcount : t.seq + es.count .sequencer ≤ listLen i t) :
    ∃ s' t', run es.length s = .next s' ∧ run (es.count .sequencer) t = .next t' ∧ Inv s' ∧ Inv t' ∧
      Alone i t' ∧ engineOf s' = engineOf t' := by
  induction es generalizing s t with
  | nil => exact ⟨s, t, rfl, rfl, hs, ht, halone, heq⟩
  | cons e rest ih =>
    have hno' : ∀ e ∈ rest, noReset e = true := fun e he => hno e (List.mem_cons_of_mem _ he)
    have hrunning := halone.of_engineOf_eq heq
    obtain ⟨s₁, hstep⟩ := step_goesOn hs
    have hs₁ := step_inv hs hstep
    have hp₁ : s₁.pending = rest := by rw [step_pending hstep, hp, List.tail_cons]
    rw [List.length_cons, run_succ_next hstep]
    by_cases hseq : e = .sequencer
    · subst hseq
      rw [List.count_cons_self] at hcount ⊢
      obtain ⟨t₁, hstep', ht₁, halone₁, hseq₁, hlen₁⟩ := halone.step_of_inv ht (by omega)
      have heq₁ : engineOf s₁ = engineOf t₁ :=
        sequencerTurns_agree hrunning heq (by rw [hp]; rfl) (by rw [halone.pending]; rfl) hstep hstep'
      rw [run_succ_next hstep']
      exact ih hs₁ ht₁ halone₁ heq₁ hp₁ hno' (by omega)
    · rw [List.count_cons_of_ne hseq] at hcount ⊢
      have heq₁ : engineOf s₁ = engineOf s :=
        hostTurn_keeps_engineOf hrunning.busy hrunning.rst hp (hno e List.mem_cons_self) hseq hstep
      exact ih hs₁ ht halone (heq₁.trans heq) hp₁ hno' hcount

end

/-- Settles O41: the run with host turns and the run without go in step (`run_keeps_engineOf`), and the step that
follows is the sequencer's in both. -/
theorem hostCannotDisturbARunningCommand : Obligations.HostCannotDisturbARunningCommand := by
  intro s es i hs hb hrst hd hno hcount
  obtain ⟨j, hj, hrun⟩ := running_of_inv hs hb
  obtain rfl : i = j := Except.ok.inj (hd.symm.trans hj)
  have hseq := hrun.seq
  obtain ⟨t, u, ht, hu, htinv, huinv, halone, heq⟩ :=
    run_keeps_engineOf (s := { s with pending := es }) (t := { s with pending := [] }) (i := i)
      { hs with } { hs with } ⟨hb, hrst, rfl, hd, hrun.notReset⟩ rfl rfl hno
      (show s.seq + es.count .sequencer ≤ listLen i { s with pending := [] } by
        have hlen : listLen i { s with pending := [] } = listLen i s := by cases i <;> rfl
        omega)
  have hrunning := halone.of_engineOf_eq heq
  obtain ⟨t', ht'⟩ := step_goesOn (s := { t with pending := [] }) { htinv with }
  obtain ⟨u', hu'⟩ := step_goesOn (s := { u with pending := [] }) { huinv with }
  exact ⟨t, u, ht, hu, hrunning.busy, heq, t', u', run_succ_next ht', run_succ_next hu',
    sequencerTurns_agree (s := { t with pending := [] }) (s' := { u with pending := [] }) hrunning heq rfl rfl
      ht' hu'⟩

end Sys2Proof.Machine
end

section
/-! What `raise` does to the error registers (R262), and the interrupt line they drive (R29, R270). -/

namespace Sys2Proof.Machine

/-! ## `raise` (R261, R262) -/

section
variable (e : ErrCode) (x : BitVec 32) (s : State)

/-- The codes of R261 end at 8: each names a flag of the 32-bit `ERR` and fits the 8-bit `ECODE`. -/
theorem ErrCode.code_le : e.code ≤ 8 := by
  cases e <;> decide

/-- The flag of an error is the one bit of `ERR` that its code numbers (R261). -/
theorem raise_err_getLsbD (j : Nat) :
    (raise e x s).err.getLsbD j = (s.err.getLsbD j || decide (j = e.code)) := by
  have hle := e.code_le
  have hcode : e.code < 32 := by omega
  rw [raise_err, ← BitVec.twoPow_eq, BitVec.getLsbD_or, BitVec.getLsbD_twoPow, decide_eq_true hcode, Bool.true_and]
  simp only [eq_comm]

theorem ipErr_eq_true_iff : ipErr s = true ↔ s.err ≠ 0 := bne_iff_ne

/-- R262: the flag that was just set keeps `ERR` from being 0. -/
theorem ipErr_raise : ipErr (raise e x s) = true := by
  rw [ipErr_eq_true_iff]
  intro hnone
  have hflag : (raise e x s).err.getLsbD e.code = true := by
    rw [raise_err_getLsbD, decide_eq_true rfl, Bool.or_true]
  rw [hnone] at hflag
  simp at hflag

variable {e x s}

theorem raise_record_first (h : s.ecode = 0) : (raise e x s).ecode.toNat = e.code ∧ (raise e x s).einfo = x := by
  have hle := e.code_le
  refine ⟨?_, if_pos h⟩
  rw [raise_ecode, if_pos h, BitVec.toNat_ofNat]
  exact Nat.mod_eq_of_lt (by omega)

theorem raise_record_later (h : s.ecode ≠ 0) :
    (raise e x s).ecode = s.ecode ∧ (raise e x s).einfo = s.einfo :=
  ⟨if_neg h, if_neg h⟩

end

/-- Settles O7: the flag bit by bit, the record by whether one was held; the answer of a refused read and the fields
that are kept are the definition's own. -/
theorem raiseSetsOneFlagAndTheFirstRecord : Obligations.RaiseSetsOneFlagAndTheFirstRecord := by
  intro e x s
  exact ⟨fun j _ => raise_err_getLsbD e x s j, raise_record_first, raise_record_later, ipErr_raise e x s, rfl, rfl⟩

/-! ## The interrupt line (R29, R270) -/

theorem ipWord_getLsbD_zero (s : State) : (ipWord s).getLsbD 0 = s.ipDone := by
  rw [ipWord, BitVec.getLsbD_append]
  simp

theorem ipWord_getLsbD_one (s : State) : (ipWord s).getLsbD 1 = ipErr s := by
  rw [ipWord, BitVec.getLsbD_append]
  simp

/-- A register of two bits is not 0 exactly when one of them is set. -/
theorem twoBits_ne_zero_iff (v : BitVec 2) : v ≠ 0 ↔ v.getLsbD 0 = true ∨ v.getLsbD 1 = true := by
  revert v
  decide

/-- Settles O40: `IP` and `IE` meet in bit 0, `DONE`, or in bit 1, `ERR`. -/
theorem interruptLineIsPendingAndEnabled : Obligations.InterruptLineIsPendingAndEnabled := by
  intro s
  calc irq s = true
      ↔ ipWord s &&& s.ie ≠ 0 := bne_iff_ne
    _ ↔ (s.ipDone = true ∧ s.ie.getLsbD 0 = true) ∨ (ipErr s = true ∧ s.ie.getLsbD 1 = true) := by
      rw [twoBits_ne_zero_iff, BitVec.getLsbD_and, BitVec.getLsbD_and, ipWord_getLsbD_zero, ipWord_getLsbD_one,
        Bool.and_eq_true, Bool.and_eq_true]
    _ ↔ (s.ipDone = true ∧ s.ie.getLsbD 0 = true) ∨ (s.err ≠ 0 ∧ s.ie.getLsbD 1 = true) := by
      rw [ipErr_eq_true_iff]

end Sys2Proof.Machine
end

section
/-! The command `RESET` (R241, R301). -/

namespace Sys2Proof.Machine

/-- R241: `RESET` has no acceptance check and does not look at `busy`. -/
theorem exec_reset (s : State) : exec .reset s = .next (softReset s) := rfl

/-- R25: no bit of `STATUS` is read from an element memory, so keeping the memories does not show there. -/
theorem statusWord_softReset (s : State) : statusWord (softReset s) = statusWord (State.resetOf s.build) := rfl

/-- Settles O11: `RESET` answers `softReset s`, whose `STATUS` is that of the hard reset; the other fields are the
definition's own. -/
theorem resetCommandClearsAllButMemories : Obligations.ResetCommandClearsAllButMemories := by
  intro s
  have hstatus : statusWord (softReset s) = 0x00000410 :=
    (statusWord_softReset s).trans (statusWord_resetOf s.build)
  exact ⟨softReset s, exec_reset s, hstatus, softReset_err s, softReset_ie s, softReset_ipDone s, softReset_tdWin s, rfl⟩

end Sys2Proof.Machine
end
